-- ==== Sys2Proof/Word.lean ====
section
/-! DEFINITION. The word types of MBCODEC (spec/00_scope.md R6): every value of the block is an unsigned integer of
a stated width, and bit 0 is its least significant bit. -/

namespace Sys2Proof

/-- An octet: an element of BUF and OCT, and the width of STATUS, FERR and LRC (R6, R24, R25, R28, R50). -/
abbrev Byte := BitVec 8

/-- A 16-bit word: an element of W, the CRC register, a two-byte frame field (R6, R27, R30). -/
abbrev Half := BitVec 16

/-- A 32-bit value: an operand register, a command word, the response data (R21, R80, R258). -/
abbrev Word := BitVec 32

end Sys2Proof
end

