-- ==== Sys2Proof/Syntax.lean ====
section
/-! DEFINITION. The commands of MBCODEC: one constructor per row of the opcode map (spec/30_encoding.md R83,
opcode_table.json), with the operand fields the row uses, in the assembler's order (R90). -/

namespace Sys2Proof

/-- An operand register number, x0 to x7 (R21). -/
abbrev Reg := Fin 8

/-- The byte-order tag ORD of the u8 packer commands (R54, R81): 0 = MSB, 1 = LSB. -/
inductive ByteOrder where
  | msb
  | lsb
deriving DecidableEq, Repr

/-- A command. `rd` is written, `rs1` and `rs2` are read; `rv` is the register named by the rd field of a PACK command,
which is read and not written (R88). `req` and `exc` are the one-bit fields REQ and EXC (R81). -/
inductive Instr where
  -- System (40_system.md)
  | nop
  | ldi (rd : Reg) (imm : Half)
  | ldih (rd : Reg) (imm : Half)
  | mov (rd rs1 : Reg)
  | clrf
  | reset
  | rderr (rd : Reg)
  -- Load and store (41_load_store.md)
  | ldb (rd rs1 : Reg)
  | stb (rs1 rs2 : Reg)
  | ldw (rd rs1 : Reg)
  | stw (rs1 rs2 : Reg)
  | ldo (rd rs1 : Reg)
  | sto (rs1 rs2 : Reg)
  -- Register packer (42_packer.md)
  | unpkU8 (rd rs1 rs2 : Reg) (ord : ByteOrder)
  | unpkU16 (rd rs1 rs2 : Reg)
  | unpkU32 (rd rs1 rs2 : Reg)
  | unpkF32 (rd rs1 rs2 : Reg)
  | unpkStr (rd rs1 rs2 : Reg)
  | unpkOct (rd rs1 rs2 : Reg)
  | packU8 (rv rs1 rs2 : Reg) (ord : ByteOrder)
  | packU16 (rv rs1 rs2 : Reg)
  | packU32 (rv rs1 rs2 : Reg)
  | packF32 (rv rs1 rs2 : Reg)
  | packStr (rv rs1 rs2 : Reg)
  | packOct (rv rs1 rs2 : Reg)
  -- Frame fields (43_frame_fields.md)
  | getTid (rd : Reg)
  | getPid (rd : Reg)
  | getMlen (rd : Reg)
  | getSid (rd : Reg)
  | getFc (rd : Reg)
  | getSa (rd : Reg)
  | getRc (rd : Reg)
  | getBc (rd : Reg)
  | getEc (rd : Reg)
  | getIsexc (rd : Reg)
  | getIsreq (rd : Reg)
  | getHassa (rd : Reg)
  | getHasrv (rd : Reg)
  | getRtulen (rd : Reg)
  | getPdulen (rd : Reg)
  | getTcplen (rd : Reg)
  | setTid (rs1 : Reg)
  | setPid (rs1 : Reg)
  | setMlen (rs1 : Reg)
  | setSid (rs1 : Reg)
  | setFc (rs1 : Reg)
  | setSa (rs1 : Reg)
  | setRc (rs1 : Reg)
  | setBc (rs1 : Reg)
  | setEc (rs1 : Reg)
  | setIsexc (rs1 : Reg)
  | setIsreq (rs1 : Reg)
  -- Frame register values (44_frame_values.md)
  | getv (rd : Reg)
  | putv (rs1 : Reg)
  | getVoff (rd : Reg)
  -- Checksums (45_checksum.md)
  | crcInit
  | crcUpd (rs1 : Reg)
  | crcRd (rd : Reg)
  | crcBuf (rd rs1 rs2 : Reg)
  | crcCalc (rd : Reg)
  | crcStored (rd : Reg)
  | crcAppend
  | lrcInit
  | lrcUpd (rs1 : Reg)
  | lrcRd (rd : Reg)
  | lrcBuf (rd rs1 rs2 : Reg)
  -- Length and time (46_length_time.md)
  | calcRtulen (rd rs1 rs2 : Reg) (req exc : Bool)
  | expRlen (rd : Reg)
  | txtime (rd rs1 rs2 : Reg)
  -- Builders and validators (47_build_validate.md)
  | build (req : Bool)
  | buildExc
  | valRtu (rd : Reg)
  | valTcp (rd : Reg)
deriving DecidableEq, Repr

/-- The four commands of the optional LRC engine (R83, R85). -/
def Instr.isLrc : Instr → Bool
  | .lrcInit | .lrcUpd _ | .lrcRd _ | .lrcBuf _ _ _ => true
  | _ => false

end Sys2Proof
end

