-- ==== Sys2Proof/Decode.lean ====
section
/-! DEFINITION. The decoder, total on 32-bit words, and the encoder, both written from spec/30_encoding.md R80 to R89
(formats and opcode map). `decode` reads the whole map of 73 commands; whether the four LRC commands exist is a
parameter (R85), checked by their meanings. -/

namespace Sys2Proof

/-! ### Fields of the command word (R81, R82) -/

/-- Bits 7:0 (R80). -/
def opcodeOf (w : Word) : Byte := w.extractLsb' 0 8

/-- Bits 10:8 (R81, R82). -/
def rdOf (w : Word) : Reg := (w.extractLsb' 8 3).toFin

/-- Bits 13:11 (R81). -/
def rs1Of (w : Word) : Reg := (w.extractLsb' 11 3).toFin

/-- Bits 16:14 (R81). -/
def rs2Of (w : Word) : Reg := (w.extractLsb' 14 3).toFin

/-- Bit 17 (R81): 0 = MSB, 1 = LSB. -/
def ordOf (w : Word) : ByteOrder := if w.getLsbD 17 then .lsb else .msb

/-- Bit 18 (R81). -/
def reqOf (w : Word) : Bool := w.getLsbD 18

/-- Bit 19 (R81). -/
def excOf (w : Word) : Bool := w.getLsbD 19

/-- Bits 31:16 of the I-format (R82). -/
def immOf (w : Word) : Half := w.extractLsb' 16 16

/-! ### Operand forms: the fields a row uses; every other field must be zero (R84, R86, R88) -/

/-- No operand: bits 31:8 are zero. -/
def formN (i : Instr) (w : Word) : Option Instr :=
  if w.extractLsb' 8 24 = 0 then some i else none

/-- rd only: bits 31:11 are zero. -/
def formD (f : Reg → Instr) (w : Word) : Option Instr :=
  if w.extractLsb' 11 21 = 0 then some (f (rdOf w)) else none

/-- rs1 only: bits 10:8 and 31:14 are zero. -/
def formS (f : Reg → Instr) (w : Word) : Option Instr :=
  if w.extractLsb' 8 3 = 0 ∧ w.extractLsb' 14 18 = 0 then some (f (rs1Of w)) else none

/-- rd and rs1: bits 31:14 are zero. -/
def formDS (f : Reg → Reg → Instr) (w : Word) : Option Instr :=
  if w.extractLsb' 14 18 = 0 then some (f (rdOf w) (rs1Of w)) else none

/-- rs1 and rs2: bits 10:8 and 31:17 are zero. -/
def formSS (f : Reg → Reg → Instr) (w : Word) : Option Instr :=
  if w.extractLsb' 8 3 = 0 ∧ w.extractLsb' 17 15 = 0 then some (f (rs1Of w) (rs2Of w)) else none

/-- rd, rs1 and rs2: bits 31:17 are zero. -/
def formDSS (f : Reg → Reg → Reg → Instr) (w : Word) : Option Instr :=
  if w.extractLsb' 17 15 = 0 then some (f (rdOf w) (rs1Of w) (rs2Of w)) else none

/-- rd, rs1, rs2 and ORD: bits 31:18 are zero. -/
def formOrd (f : Reg → Reg → Reg → ByteOrder → Instr) (w : Word) : Option Instr :=
  if w.extractLsb' 18 14 = 0 then some (f (rdOf w) (rs1Of w) (rs2Of w) (ordOf w)) else none

/-- rd, rs1, rs2, REQ and EXC: bits 17 and 31:20 are zero. -/
def formCalc (f : Reg → Reg → Reg → Bool → Bool → Instr) (w : Word) : Option Instr :=
  if w.extractLsb' 17 1 = 0 ∧ w.extractLsb' 20 12 = 0 then
    some (f (rdOf w) (rs1Of w) (rs2Of w) (reqOf w) (excOf w)) else none

/-- REQ only: bits 17:8 and 31:19 are zero. -/
def formBuild (f : Bool → Instr) (w : Word) : Option Instr :=
  if w.extractLsb' 8 10 = 0 ∧ w.extractLsb' 19 13 = 0 then some (f (reqOf w)) else none

/-- The I-format: bits 15:11 are zero (R82). -/
def formI (f : Reg → Half → Instr) (w : Word) : Option Instr :=
  if w.extractLsb' 11 5 = 0 then some (f (rdOf w) (immOf w)) else none

/-- The opcode map (R83). A word that is no command (R84 to R86) decodes to `none`; the step ends it with
ReservedEncoding (R87). -/
def decode (w : Word) : Option Instr :=
  match (opcodeOf w).toNat with
  | 0x00 => formN .nop w
  | 0x01 => formI .ldi w
  | 0x02 => formI .ldih w
  | 0x03 => formDS .mov w
  | 0x04 => formN .clrf w
  | 0x05 => formN .reset w
  | 0x06 => formD .rderr w
  | 0x10 => formDS .ldb w
  | 0x11 => formSS .stb w
  | 0x12 => formDS .ldw w
  | 0x13 => formSS .stw w
  | 0x14 => formDS .ldo w
  | 0x15 => formSS .sto w
  | 0x20 => formOrd .unpkU8 w
  | 0x21 => formDSS .unpkU16 w
  | 0x22 => formDSS .unpkU32 w
  | 0x23 => formDSS .unpkF32 w
  | 0x24 => formDSS .unpkStr w
  | 0x25 => formDSS .unpkOct w
  | 0x28 => formOrd .packU8 w
  | 0x29 => formDSS .packU16 w
  | 0x2A => formDSS .packU32 w
  | 0x2B => formDSS .packF32 w
  | 0x2C => formDSS .packStr w
  | 0x2D => formDSS .packOct w
  | 0x30 => formD .getTid w
  | 0x31 => formD .getPid w
  | 0x32 => formD .getMlen w
  | 0x33 => formD .getSid w
  | 0x34 => formD .getFc w
  | 0x35 => formD .getSa w
  | 0x36 => formD .getRc w
  | 0x37 => formD .getBc w
  | 0x38 => formD .getEc w
  | 0x39 => formD .getIsexc w
  | 0x3A => formD .getIsreq w
  | 0x3B => formD .getHassa w
  | 0x3C => formD .getHasrv w
  | 0x3D => formD .getRtulen w
  | 0x3E => formD .getPdulen w
  | 0x3F => formD .getTcplen w
  | 0x40 => formS .setTid w
  | 0x41 => formS .setPid w
  | 0x42 => formS .setMlen w
  | 0x43 => formS .setSid w
  | 0x44 => formS .setFc w
  | 0x45 => formS .setSa w
  | 0x46 => formS .setRc w
  | 0x47 => formS .setBc w
  | 0x48 => formS .setEc w
  | 0x49 => formS .setIsexc w
  | 0x4A => formS .setIsreq w
  | 0x50 => formD .getv w
  | 0x51 => formS .putv w
  | 0x52 => formD .getVoff w
  | 0x58 => formN .crcInit w
  | 0x59 => formS .crcUpd w
  | 0x5A => formD .crcRd w
  | 0x5B => formDSS .crcBuf w
  | 0x5C => formD .crcCalc w
  | 0x5D => formD .crcStored w
  | 0x5E => formN .crcAppend w
  | 0x60 => formN .lrcInit w
  | 0x61 => formS .lrcUpd w
  | 0x62 => formD .lrcRd w
  | 0x63 => formDSS .lrcBuf w
  | 0x68 => formCalc .calcRtulen w
  | 0x69 => formD .expRlen w
  | 0x6A => formDSS .txtime w
  | 0x70 => formBuild .build w
  | 0x71 => formN .buildExc w
  | 0x72 => formD .valRtu w
  | 0x73 => formD .valTcp w
  | _ => none

/-- The decoder on an instruction whose bits are `w`, numbered as opcode_table.json numbers them: every command is one
32-bit word (R80), so the word is the low 32 bits, and bits at or above `nbits` are zero. -/
def decodeTableWord (nbits w : Nat) : Option Instr := decode (BitVec.ofNat 32 (w % 2 ^ nbits))

/-! ### Encoder (R81 to R83) -/

/-- A register number as a 3-bit field. -/
def regField (r : Reg) : BitVec 3 := BitVec.ofFin r

/-- The ORD bit of a byte order (R81). -/
def ByteOrder.bit : ByteOrder → Bool
  | .msb => false
  | .lsb => true

/-- An R-format word, fields from bit 31 down: zero(12), EXC, REQ, ORD, rs2, rs1, rd, opcode (R81). -/
def rWord (op : Byte) (rd rs1 rs2 : Reg) (ord req exc : Bool) : Word :=
  (0 : BitVec 12) ++ (BitVec.ofBool exc ++ (BitVec.ofBool req ++ (BitVec.ofBool ord ++
    (regField rs2 ++ (regField rs1 ++ (regField rd ++ op))))))

/-- An I-format word, fields from bit 31 down: imm16, zero(5), rd, opcode (R82). -/
def iWord (op : Byte) (rd : Reg) (imm : Half) : Word :=
  imm ++ ((0 : BitVec 5) ++ (regField rd ++ op))

/-- The word of a command (R81 to R83): the opcode of its row, its operands in their fields, every other field zero. -/
def encode : Instr → Word
  | .nop => rWord 0x00 0 0 0 false false false
  | .ldi rd imm => iWord 0x01 rd imm
  | .ldih rd imm => iWord 0x02 rd imm
  | .mov rd rs1 => rWord 0x03 rd rs1 0 false false false
  | .clrf => rWord 0x04 0 0 0 false false false
  | .reset => rWord 0x05 0 0 0 false false false
  | .rderr rd => rWord 0x06 rd 0 0 false false false
  | .ldb rd rs1 => rWord 0x10 rd rs1 0 false false false
  | .stb rs1 rs2 => rWord 0x11 0 rs1 rs2 false false false
  | .ldw rd rs1 => rWord 0x12 rd rs1 0 false false false
  | .stw rs1 rs2 => rWord 0x13 0 rs1 rs2 false false false
  | .ldo rd rs1 => rWord 0x14 rd rs1 0 false false false
  | .sto rs1 rs2 => rWord 0x15 0 rs1 rs2 false false false
  | .unpkU8 rd rs1 rs2 ord => rWord 0x20 rd rs1 rs2 ord.bit false false
  | .unpkU16 rd rs1 rs2 => rWord 0x21 rd rs1 rs2 false false false
  | .unpkU32 rd rs1 rs2 => rWord 0x22 rd rs1 rs2 false false false
  | .unpkF32 rd rs1 rs2 => rWord 0x23 rd rs1 rs2 false false false
  | .unpkStr rd rs1 rs2 => rWord 0x24 rd rs1 rs2 false false false
  | .unpkOct rd rs1 rs2 => rWord 0x25 rd rs1 rs2 false false false
  | .packU8 rv rs1 rs2 orv => rWord 0x28 rv rs1 rs2 orv.bit false false
  | .packU16 rv rs1 rs2 => rWord 0x29 rv rs1 rs2 false false false
  | .packU32 rv rs1 rs2 => rWord 0x2A rv rs1 rs2 false false false
  | .packF32 rv rs1 rs2 => rWord 0x2B rv rs1 rs2 false false false
  | .packStr rv rs1 rs2 => rWord 0x2C rv rs1 rs2 false false false
  | .packOct rv rs1 rs2 => rWord 0x2D rv rs1 rs2 false false false
  | .getTid rd => rWord 0x30 rd 0 0 false false false
  | .getPid rd => rWord 0x31 rd 0 0 false false false
  | .getMlen rd => rWord 0x32 rd 0 0 false false false
  | .getSid rd => rWord 0x33 rd 0 0 false false false
  | .getFc rd => rWord 0x34 rd 0 0 false false false
  | .getSa rd => rWord 0x35 rd 0 0 false false false
  | .getRc rd => rWord 0x36 rd 0 0 false false false
  | .getBc rd => rWord 0x37 rd 0 0 false false false
  | .getEc rd => rWord 0x38 rd 0 0 false false false
  | .getIsexc rd => rWord 0x39 rd 0 0 false false false
  | .getIsreq rd => rWord 0x3A rd 0 0 false false false
  | .getHassa rd => rWord 0x3B rd 0 0 false false false
  | .getHasrv rd => rWord 0x3C rd 0 0 false false false
  | .getRtulen rd => rWord 0x3D rd 0 0 false false false
  | .getPdulen rd => rWord 0x3E rd 0 0 false false false
  | .getTcplen rd => rWord 0x3F rd 0 0 false false false
  | .setTid rs1 => rWord 0x40 0 rs1 0 false false false
  | .setPid rs1 => rWord 0x41 0 rs1 0 false false false
  | .setMlen rs1 => rWord 0x42 0 rs1 0 false false false
  | .setSid rs1 => rWord 0x43 0 rs1 0 false false false
  | .setFc rs1 => rWord 0x44 0 rs1 0 false false false
  | .setSa rs1 => rWord 0x45 0 rs1 0 false false false
  | .setRc rs1 => rWord 0x46 0 rs1 0 false false false
  | .setBc rs1 => rWord 0x47 0 rs1 0 false false false
  | .setEc rs1 => rWord 0x48 0 rs1 0 false false false
  | .setIsexc rs1 => rWord 0x49 0 rs1 0 false false false
  | .setIsreq rs1 => rWord 0x4A 0 rs1 0 false false false
  | .getv rd => rWord 0x50 rd 0 0 false false false
  | .putv rs1 => rWord 0x51 0 rs1 0 false false false
  | .getVoff rd => rWord 0x52 rd 0 0 false false false
  | .crcInit => rWord 0x58 0 0 0 false false false
  | .crcUpd rs1 => rWord 0x59 0 rs1 0 false false false
  | .crcRd rd => rWord 0x5A rd 0 0 false false false
  | .crcBuf rd rs1 rs2 => rWord 0x5B rd rs1 rs2 false false false
  | .crcCalc rd => rWord 0x5C rd 0 0 false false false
  | .crcStored rd => rWord 0x5D rd 0 0 false false false
  | .crcAppend => rWord 0x5E 0 0 0 false false false
  | .lrcInit => rWord 0x60 0 0 0 false false false
  | .lrcUpd rs1 => rWord 0x61 0 rs1 0 false false false
  | .lrcRd rd => rWord 0x62 rd 0 0 false false false
  | .lrcBuf rd rs1 rs2 => rWord 0x63 rd rs1 rs2 false false false
  | .calcRtulen rd rs1 rs2 req exc => rWord 0x68 rd rs1 rs2 false req exc
  | .expRlen rd => rWord 0x69 rd 0 0 false false false
  | .txtime rd rs1 rs2 => rWord 0x6A rd rs1 rs2 false false false
  | .build req => rWord 0x70 0 0 0 false req false
  | .buildExc => rWord 0x71 0 0 0 false false false
  | .valRtu rd => rWord 0x72 rd 0 0 false false false
  | .valTcp rd => rWord 0x73 rd 0 0 false false false

end Sys2Proof
end

