-- ==== Sys2Proof/Config.lean ====
section
/-! DEFINITION. The implementation parameters of MBCODEC (spec/00_scope.md R5, spec/92_eei_decisions.md, last table):
the constants the source fixes, and the open parameters as an argument of the model (`Config`) with the defaults the
spec gives. The spec leaves no value free (93_implementation_defined.md: "There is no behaviour in this spec whose
treatment is any value or stuck"), so there is no opaque constant here. -/

namespace Sys2Proof

/-- BUF_CAP (R5, R29): bytes in the frame buffer. -/
def bufCap : Nat := 300

/-- RTU_BASE (R5, R58): the BUF offset of the unit-id byte, where the RTU layout starts. -/
def rtuBase : Nat := 6

/-- CRC_SEED (R5, R202): the initial CRC value. -/
def crcSeed : Half := 0xFFFF

/-- CRC_POLY_REFLECTED (R5, R200): the polynomial the table is made from. -/
def crcPoly : Half := 0xA001

/-- TX_BITS_PER_BYTE (R5, R224): line bits per octet. -/
def txBitsPerByte : Nat := 10

/-- COIL_ON (R5, R190): the word a set bit decodes to. -/
def coilOn : Half := 0xFF00

/-- COIL_TRUE_RULE (R5, R190, D24): which words pack to a 1 bit. -/
inductive CoilTrueRule where
  /-- Any word but zero counts as set (the default). -/
  | nonzero
  /-- Only the word 0xFF00 counts as set. -/
  | eqFF00
deriving DecidableEq, Repr

/-- TXTIME_ROUNDING (R5, D30, 90_conflicts.md C1): how TXTIME rounds a quotient that is not exact. -/
inductive TxtimeRounding where
  /-- Up to the next millisecond (the default, and the one value that meets the source's example, R224). -/
  | ceil
  /-- To the nearest millisecond, the alternative C1 names; DEDUCED (log 10): a half goes up. -/
  | nearest
deriving DecidableEq, Repr

/-- The open parameters of the spec (R5; 92_eei_decisions.md, "Open parameters in one place"), each with its default.
LATENCY is not here because no rule depends on it (R294), nor MAX_MODBUS_REGISTERS, which the block never enforces. -/
structure Config where
  /-- NW: 16-bit words in W (R30, D8). -/
  nw : Nat := 2048
  /-- NO: bytes in OCT (R31, D8). -/
  no : Nat := 256
  /-- HAS_LRC: whether the LRC register and its four commands exist (R28, R85, D14). -/
  hasLrc : Bool := false
  /-- COIL_TRUE_RULE (R190, D24). -/
  coilTrueRule : CoilTrueRule := .nonzero
  /-- TXTIME_ROUNDING (R5, D30). -/
  txtimeRounding : TxtimeRounding := .ceil
deriving DecidableEq, Repr

/-- Every parameter at its default (R5). -/
def Config.default : Config := {}

/-- The values the spec admits for the parameters: NW at least 2040, NO even and at least 2 (92_eei_decisions.md, last
table). That NO is below 2^32 is DEDUCED (log 4): UNPK.OCT writes a byte count of up to NO to a 32-bit register, and a
rule writes only values stated to fit (R7). -/
abbrev Config.Admitted (c : Config) : Prop := 2040 ≤ c.nw ∧ 2 ≤ c.no ∧ c.no % 2 = 0 ∧ c.no < 2 ^ 32

end Sys2Proof
end

