-- ==== Sys2Proof/Machine/State.lean ====
section
/-! DEFINITION. The state of the machine as plain data (spec/10_state.md R20 to R33), the reasons a step can stop, and
the state after reset. The block's own state is `x` to `oct` (R32); `cfg` holds the parameters of R5, `pending` the
commands the host has still to issue (R20, R23) and `responses` the responses it has been given (R258, R295). -/

namespace Sys2Proof.Machine

/-- One address space (R50): the listed elements, addresses strictly rising, none of them zero. An element that is not
listed reads as zero, the value every element has after reset (R33; log 6). `Mem 8` is a list of `Host.Cell`. -/
abbrev Mem (n : Nat) := List (Nat × BitVec n)

/-- The outcome a command ends with (R250). -/
inductive Status where
  /-- 0: the command completed. -/
  | ok
  /-- 1: a packer span is too short for the type or the value. -/
  | bufferTooSmall
  /-- 2: an index, or an index plus a length, lies outside BUF, W or OCT. -/
  | outOfRange
  /-- 3: an operand value does not fit the field or argument it is for. -/
  | invalidArgument
  /-- 4: the frame in BUF has no such field. -/
  | fieldAbsent
  /-- 5: the command word is not one of the defined commands. -/
  | reservedEncoding
deriving DecidableEq, Repr

/-- The value a validator returns as data (R252). -/
inductive FrameStatus where
  /-- 0: every test passed. -/
  | ok
  /-- 1: the protocol id is not 0. -/
  | protocolIdentifier
  /-- 2: the MBAP length is 0. -/
  | mbapHeaderLengthInvalid
  /-- 3: the stored CRC is not the computed CRC. -/
  | invalidCrc
  /-- 4: listed by the source; no command produces it (90_conflicts.md C4). -/
  | transactionId
  /-- 5: the seven-bit function code is 0. -/
  | invalidFunctionCode
  /-- 6: the frame kind has no CRC position. -/
  | unknown
deriving DecidableEq, Repr

/-- The pair every command answers the host with (R258). -/
structure Response where
  status : Byte
  data : Word
deriving DecidableEq, Repr

/-- The machine's state. -/
@[ext]
structure State where
  /-- The implementation parameters (R5): fixed, no command changes them (DESIGN CHOICE, log 3). -/
  cfg : Config
  /-- The operand registers x0 to x7 (R21). -/
  x : Vector Word 8
  /-- STATUS: the status of the most recently completed command (R24). -/
  status : Byte
  /-- FERR: the status of the first failed command since reset or CLRF, or 0 (R25). -/
  ferr : Byte
  /-- DIR: `true` = 1 = request, `false` = 0 = response (R26). -/
  dir : Bool
  /-- CRC: the accumulator of the CRC-16 engine (R27). -/
  crc : Half
  /-- LRC: the running sum of the optional LRC engine; it exists only when HAS_LRC = 1 (R28), and is
  zero and never written otherwise (DESIGN CHOICE, log 3). -/
  lrc : Byte
  /-- BUF: the frame buffer, bytes 0 to 299 (R29). -/
  buf : Mem 8
  /-- W: the register-word array, words 0 to NW - 1 (R30). -/
  w : Mem 16
  /-- OCT: the octet staging area, bytes 0 to NO - 1 (R31). -/
  oct : Mem 8
  /-- The command words the host has still to issue, the next one first (R20, R23). Not state of the block: DESIGN
  CHOICE, log 2. -/
  pending : List Word
  /-- The responses given so far, the oldest first (R258, R295). Not state of the block: DESIGN CHOICE, log 2. -/
  responses : List Response
deriving DecidableEq, Repr

/-- Why the machine stops. No command and no command word stops it: every word ends in a status (R87, R250). -/
inductive Fault where
  /-- The host has issued every command of its list: the run has ended (R295), and the block does nothing without a
  command (R254). Raised by `step` when no command is pending. DESIGN CHOICE, log 1. Safe: the model stops where the
  block idles. -/
  | endOfRun
deriving DecidableEq, Repr

/-- Why the machine has no meaning for an instruction. -/
inductive Refusal where
  /-- The instruction's arm of `exec` has no meaning. Raised by `exec` alone; no arm raises it now. Safe. -/
  | notModelled (mnemonic : String)
deriving DecidableEq, Repr

/-- What a step and every meaning answers. -/
abbrev Outcome := Host.Outcome State Fault Refusal

/-- The state right after reset under the parameters `c` (R33, R280), with no command issued and none answered. -/
def State.resetOf (c : Config) : State where
  cfg := c
  x := Vector.replicate 8 0
  status := 0
  ferr := 0
  dir := false
  crc := crcSeed
  lrc := 0
  buf := []
  w := []
  oct := []
  pending := []
  responses := []

/-- The state right after reset with every parameter at its default (R5, R33, R280). -/
def State.reset : State := State.resetOf Config.default

end Sys2Proof.Machine
end

