-- ==== Sys2Proof/Machine/Flags.lean ====
section
/-! DEFINITION. The status codes and the two status registers (spec/60_exceptions.md R250, R252; spec/10_state.md R24,
R25). The block has no condition codes, carry, overflow or zero flag (R8, R24). -/

namespace Sys2Proof.Machine

/-- The number of a command status (R250). -/
def Status.code : Status → Byte
  | .ok => 0
  | .bufferTooSmall => 1
  | .outOfRange => 2
  | .invalidArgument => 3
  | .fieldAbsent => 4
  | .reservedEncoding => 5

/-- The number of a frame status (R252). -/
def FrameStatus.code : FrameStatus → Word
  | .ok => 0
  | .protocolIdentifier => 1
  | .mbapHeaderLengthInvalid => 2
  | .invalidCrc => 3
  | .transactionId => 4
  | .invalidFunctionCode => 5
  | .unknown => 6

/-- FERR after a command that ends with `e`: it takes the first failure and keeps it (R25). -/
def ferrAfter (ferr : Byte) (e : Status) : Byte :=
  if ferr = 0 ∧ e ≠ .ok then e.code else ferr

end Sys2Proof.Machine
end

