-- ==== Sys2Proof/Machine/Ops.lean ====
section
/-! DEFINITION. The named operations every meaning is written with: registers (spec/10_state.md R21, R22), the three
address spaces (spec/20_memory.md R50 to R57), and how a command ends, which is this block's whole exception mechanism
(spec/60_exceptions.md R250 to R258: a failure is a status; there is no trap entry and no return from one, R257). -/

namespace Sys2Proof.Machine

/-! ### Arithmetic (R7) -/

/-- `ceil_div(a, b)` of R7, for b > 0. -/
def ceilDiv (a b : Nat) : Nat := (a + b - 1) / b

/-- `a / b` rounded to a whole number as TXTIME_ROUNDING says, for b > 0 (R224, 90_conflicts.md C1). The nearest whole
number is the floor of the quotient with the source's "+0.5 bias" added (DEDUCED, log 10). -/
def roundDiv : TxtimeRounding → Nat → Nat → Nat
  | .ceil, a, b => ceilDiv a b
  | .nearest, a, b => (2 * a + b) / (2 * b)

/-! ### Bytes of a word (R51 to R53) -/

/-- Bits 15:8 of a 16-bit word. -/
def hiByte (h : Half) : Byte := h.extractLsb' 8 8

/-- Bits 7:0 of a 16-bit word. -/
def loByte (h : Half) : Byte := h.extractLsb' 0 8

/-- `(hi << 8) | lo`. -/
def half (hi lo : Byte) : Half := hi ++ lo

/-- `zext_32` of a byte. -/
def zextByte (b : Byte) : Word := b.setWidth 32

/-- `zext_32` of a 16-bit word. -/
def zextHalf (h : Half) : Word := h.setWidth 32

/-! ### Address spaces (R50) -/

/-- The element at index `a` (R57: reading changes nothing); an unlisted element reads as zero (R33). -/
def Memory.read {n : Nat} : Mem n → Nat → BitVec n
  | [], _ => 0#n
  | (k, v) :: t, a => if k = a then v else Memory.read t a

/-- Write `v` at index `a`, keeping the addresses rising and listing no zero element. -/
def Memory.write {n : Nat} : Mem n → Nat → BitVec n → Mem n
  | [], a, v => if v = 0#n then [] else [(a, v)]
  | (k, u) :: t, a, v =>
    if a < k then (if v = 0#n then (k, u) :: t else (a, v) :: (k, u) :: t)
    else if a = k then (if v = 0#n then t else (a, v) :: t)
    else (k, u) :: Memory.write t a v

/-- `MemRead(S, a, n)` of R7. -/
def Memory.readRange {n : Nat} (m : Mem n) (a count : Nat) : List (BitVec n) :=
  (List.range count).map fun i => Memory.read m (a + i)

/-- `MemWrite(S, a, n, l)` of R7, in rising index order. -/
def Memory.writeRange {n : Nat} (m : Mem n) (a : Nat) : List (BitVec n) → Mem n
  | [] => m
  | v :: l => Memory.writeRange (Memory.write m a v) (a + 1) l

/-- The canonical form of a space of `size` elements: addresses strictly rising and inside the space, and no listed
element zero. -/
abbrev Memory.wf {n : Nat} (size : Nat) (m : Mem n) : Prop :=
  m.Pairwise (fun c d => c.1 < d.1) ∧ ∀ c ∈ m, c.1 < size ∧ c.2 ≠ 0#n

/-- `BE16(S, a)` of R7: the byte at the lower index is the more significant (R51). -/
def be16 (m : Mem 8) (a : Nat) : Half := half (Memory.read m a) (Memory.read m (a + 1))

/-- `BE16(S, a) <- v` of R7. -/
def setBe16 (m : Mem 8) (a : Nat) (v : Half) : Mem 8 :=
  Memory.write (Memory.write m a (hiByte v)) (a + 1) (loByte v)

/-- A 16-bit value at `a` low byte first: the CRC's order (R52). -/
def le16 (m : Mem 8) (a : Nat) : Half := half (Memory.read m (a + 1)) (Memory.read m a)

/-- Store a 16-bit value at `a` low byte first: the CRC's order (R52). -/
def setLe16 (m : Mem 8) (a : Nat) (v : Half) : Mem 8 :=
  Memory.write (Memory.write m a (loByte v)) (a + 1) (hiByte v)

/-! ### Registers (R21, R22) -/

/-- Read operand register `r`; none is hardwired (R21). -/
def State.getX (s : State) (r : Reg) : Word := s.x[r]

/-- `x[r]` as the unsigned number it holds (R6). -/
def State.num (s : State) (r : Reg) : Nat := (s.getX r).toNat

/-- Write all 32 bits of operand register `r` (R22). -/
def State.setX (s : State) (r : Reg) (v : Word) : State := { s with x := s.x.set r v }

/-! ### How a command ends (R24, R25, R250, R256, R258) -/

/-- The command ends with status `e` and response data `data`: STATUS takes the code, FERR takes it if it was 0 and the
command failed, and the host gets the response. -/
def State.respond (s : State) (e : Status) (data : Word) : State :=
  { s with
    status := e.code
    ferr := ferrAfter s.ferr e
    responses := s.responses ++ [{ status := e.code, data := data }] }

/-- `raise e` (R7, R256): the command ends with the failure status `e`, response data 0, and nothing changes but STATUS
and FERR. This is the one way a command fails. -/
def raise (e : Status) (s : State) : Outcome := .next (s.respond e 0)

/-- The command ends with `Ok` and has no destination: response data 0 (R258). `s` is the state with its effects. -/
def finish (s : State) : Outcome := .next (s.respond .ok 0)

/-- The command ends with `Ok` and `x[rd] <- v`, and v is the response data (R22, R258). -/
def finishReg (rd : Reg) (v : Word) (s : State) : Outcome := .next ((s.setX rd v).respond .ok v)

end Sys2Proof.Machine
end

