-- ==== Sys2Proof/Machine/Layout.lean ====
section
/-! DEFINITION. The layout of the frame in BUF: the predicates and derived values every frame command shares
(spec/43_frame_fields.md R140 to R151, spec/20_memory.md R58 to R64) and the RTU length function
(spec/46_length_time.md R220). All are functions of BUF and DIR, read from the current state each time. -/

namespace Sys2Proof.Machine

/-- The functions the source names (spec/20_memory.md R60). -/
inductive FunctionCode where
  | readCoils
  | readDiscreteInputs
  | readHoldingRegisters
  | readInputRegisters
  | writeSingleCoil
  | writeSingleRegister
  | writeMultipleCoils
  | writeMultipleRegisters
  | diagnostics
  | maskWriteRegister
  | readWriteMultipleRegisters
  | readDeviceIdentification
deriving DecidableEq, Repr

/-- The wire value of a function, bits 6:0 of BUF[7] (R60; the last four are general knowledge by the spec's own mark,
and no command tells them from any other value of class OT). -/
def FunctionCode.value : FunctionCode → Nat
  | .readCoils => 0x01
  | .readDiscreteInputs => 0x02
  | .readHoldingRegisters => 0x03
  | .readInputRegisters => 0x04
  | .writeSingleCoil => 0x05
  | .writeSingleRegister => 0x06
  | .writeMultipleCoils => 0x0F
  | .writeMultipleRegisters => 0x10
  | .diagnostics => 0x08
  | .maskWriteRegister => 0x16
  | .readWriteMultipleRegisters => 0x17
  | .readDeviceIdentification => 0x2B

/-- The exception codes the source names (spec/20_memory.md R61). The block checks no membership: BUF[8] of an exception
frame is any byte (90_conflicts.md C5). -/
inductive ExceptionCode where
  | illegalFunction
  | illegalDataAddress
  | illegalDataValue
  | slaveDeviceFailure
  | acknowledge
  | slaveDeviceBusy
  | negativeAcknowledge
  | memoryParityError
deriving DecidableEq, Repr

/-- The value of an exception code (R61). -/
def ExceptionCode.value : ExceptionCode → Byte
  | .illegalFunction => 1
  | .illegalDataAddress => 2
  | .illegalDataValue => 3
  | .slaveDeviceFailure => 4
  | .acknowledge => 5
  | .slaveDeviceBusy => 6
  | .negativeAcknowledge => 7
  | .memoryParityError => 8

/-- The class of a function code (R141). -/
inductive FcClass where
  /-- Bulk read. -/
  | br
  /-- Single write. -/
  | sw
  /-- Multiple write. -/
  | mw
  /-- Every other value. -/
  | ot
deriving DecidableEq, Repr

/-- `class(fc)` (R60, R141). -/
def fcClass (fc : Nat) : FcClass :=
  if 0x01 ≤ fc ∧ fc ≤ 0x04 then .br
  else if fc = 0x05 ∨ fc = 0x06 then .sw
  else if fc = 0x0F ∨ fc = 0x10 then .mw
  else .ot

/-- `bitfn(fc)`: the functions whose values travel one bit per coil (R142). -/
def bitFn (fc : Nat) : Bool := fc == 0x01 || fc == 0x02 || fc == 0x0F

/-- `calculate_rtu_length(is_exception, is_request, function_code, byte_count)` (R220). -/
def calcRtuLength (e r : Bool) (fc bc : Nat) : Nat :=
  if e then 5
  else match fcClass fc, r with
    | .br, true => 8
    | .br, false => 5 + bc
    | .sw, _ => 8
    | .mw, true => 9 + bc
    | .mw, false => 8
    | .ot, _ => 0

/-- BUF[a]. -/
def State.bufAt (s : State) (a : Nat) : Byte := Memory.read s.buf a

/-- `fc7`: the function code, bits 6:0 of BUF[7] (R140). -/
def State.fc7 (s : State) : Nat := ((s.bufAt 7).extractLsb' 0 7).toNat

/-- `exc`: the exception bit, bit 7 of BUF[7] (R140). -/
def State.exc (s : State) : Bool := (s.bufAt 7).getLsbD 7

/-- `req`: the effective direction, DIR = 1 and no exception (R140). -/
def State.req (s : State) : Bool := s.dir && !s.exc

/-- `class(fc7)`. -/
def State.cls (s : State) : FcClass := fcClass s.fc7

/-- `has_sa`: the frame has a start address, at 8 (R143). -/
def State.hasSa (s : State) : Bool :=
  !s.exc && (s.cls == .br && s.req || s.cls == .sw || s.cls == .mw)

/-- `has_rv`: the frame has register values (R144). -/
def State.hasRv (s : State) : Bool :=
  !s.exc && (s.cls == .br && !s.req || s.cls == .sw || s.cls == .mw && s.req)

/-- `rc_off`: where a stored register count sits (R145). -/
def State.rcOff (s : State) : Option Nat :=
  if !s.exc && (s.cls == .br && s.req || s.cls == .mw) then some 10 else none

/-- `bc_off`: where a stored byte count sits (R146). -/
def State.bcOff (s : State) : Option Nat :=
  if !s.exc && s.cls == .br && !s.req then some 8
  else if !s.exc && s.cls == .mw && s.req then some 12
  else none

/-- `byte_count()`: stored, synthesised as 2 or 0, or absent (R147). -/
def State.byteCount (s : State) : Option Nat :=
  if s.exc then none
  else match s.cls, s.req with
    | .ot, _ => none
    | .sw, _ => some 2
    | .br, true => some 0
    | .br, false => some (s.bufAt 8).toNat
    | .mw, true => some (s.bufAt 12).toNat
    | .mw, false => some 0

/-- `register_count()`: stored, always 1, derived from the byte count, or absent (R148). -/
def State.registerCount (s : State) : Option Nat :=
  if s.exc then none
  else match s.cls, s.req with
    | .ot, _ => none
    | .sw, _ => some 1
    | .br, true => some (be16 s.buf 10).toNat
    | .mw, _ => some (be16 s.buf 10).toNat
    | .br, false =>
      if bitFn s.fc7 then some ((s.bufAt 8).toNat * 8) else some ((s.bufAt 8).toNat / 2)

/-- The byte count with an absent one passed as 0 (R149). -/
def State.bcOrZero (s : State) : Nat := s.byteCount.getD 0

/-- `rtu_length()`, computed from the frame's content (R149). -/
def State.rtuLength (s : State) : Nat := calcRtuLength s.exc s.req s.fc7 s.bcOrZero

/-- `pdu_length()` (R150): `rtu_length - 3`, 0 where that would be negative. -/
def State.pduLength (s : State) : Nat := s.rtuLength - 3

/-- `tcp_frame()`: BUF[0 .. 6 + mbap_length - 1], the image the host sends in TCP mode (R63). DESIGN CHOICE (log 11): where
the stored length exceeds 294 that range leaves BUF, and the image ends with BUF[299], past which R167 lets the host copy
nothing. -/
def State.tcpFrame (s : State) : List Byte := Memory.readRange s.buf 0 (min (6 + (be16 s.buf 4).toNat) bufCap)

/-- `rtu_frame()`: BUF[6 .. 6 + rtu_length - 1], the image the host sends in RTU mode (R63); it stays inside BUF (R64). -/
def State.rtuFrame (s : State) : List Byte := Memory.readRange s.buf rtuBase s.rtuLength

/-- `voff`: the BUF offset of the first register-value byte (R151). -/
def State.voff (s : State) : Option Nat :=
  if s.hasRv then
    match s.cls with
    | .br => some 9
    | .sw => some 10
    | .mw => some 13
    | .ot => none
  else none

end Sys2Proof.Machine
end

