-- ==== Sys2Proof/Machine/Operands.lean ====
section
/-! DEFINITION. The operand forms of the commands: the register-indirect index (spec/41_load_store.md R116), the span
of a packer command (spec/42_packer.md R120, R121), the byte range of CRC.BUF and LRC.BUF (spec/45_checksum.md R206,
R214), the field of a getter and the value of a setter (spec/43_frame_fields.md R168, R169). Each does the checks of its
form, in the order of R255, and passes the operand on. -/

namespace Sys2Proof.Machine

/-- The index `x[rs1]` into a space of `size` elements (R116): compared as an unsigned 32-bit number. -/
def withIndex (size : Nat) (rs1 : Reg) (s : State) (k : Nat → Outcome) : Outcome :=
  if s.num rs1 ≥ size then raise .outOfRange s else k (s.num rs1)

/-- The slice W[base .. base+span-1] of a packer command (R120), base in x[rs1] and span in x[rs2]: it must lie inside W,
then be long enough for the type (R121). The sum is exact. -/
def withSpan (rs1 rs2 : Reg) (tooSmall : Nat → Bool) (s : State) (k : Nat → Nat → Outcome) : Outcome :=
  if s.num rs1 + s.num rs2 > s.cfg.nw then raise .outOfRange s
  else if tooSmall (s.num rs2) then raise .bufferTooSmall s
  else k (s.num rs1) (s.num rs2)

/-- The slice and the byte length of PACK.STR and PACK.OCT (R121, R132, R133): the slice inside W, the length x[rv]
inside OCT, then the slice long enough for the length. -/
def withSpanLen (rv rs1 rs2 : Reg) (s : State) (k : Nat → Nat → Nat → Outcome) : Outcome :=
  if s.num rs1 + s.num rs2 > s.cfg.nw then raise .outOfRange s
  else if s.num rv > s.cfg.no then raise .outOfRange s
  else if ceilDiv (s.num rv) 2 > s.num rs2 then raise .bufferTooSmall s
  else k (s.num rs1) (s.num rs2) (s.num rv)

/-- The BUF range of CRC.BUF and LRC.BUF (R206, R214): first index x[rs1], byte count x[rs2], summed exactly. -/
def withBufRange (rs1 rs2 : Reg) (s : State) (k : Nat → Nat → Outcome) : Outcome :=
  if s.num rs1 + s.num rs2 > bufCap then raise .outOfRange s else k (s.num rs1) (s.num rs2)

/-- A getter (R168): the value of the field into x[rd], or FieldAbsent where the frame has no such field. -/
def getField (rd : Reg) (field : Option Nat) (s : State) : Outcome :=
  match field with
  | none => raise .fieldAbsent s
  | some v => finishReg rd (BitVec.ofNat 32 v) s

/-- A setter (R169): FieldAbsent where the frame has no such field, then InvalidArgument where x[rs1] does not fit,
then the field's update. -/
def setField (rs1 : Reg) (present : Bool) (max : Nat) (s : State) (upd : Nat → State) : Outcome :=
  if !present then raise .fieldAbsent s
  else if s.num rs1 > max then raise .invalidArgument s
  else finish (upd (s.num rs1))

end Sys2Proof.Machine
end

