-- ==== Sys2Proof/Machine/Checksum.lean ====
section
/-! DEFINITION. The CRC-16 and the optional LRC engine, and their commands (spec/45_checksum.md R200 to R215). -/

namespace Sys2Proof.Machine

/-! ### The CRC-16 function (R200 to R202, R215) -/

/-- One of the eight shifts that make a table entry (R200). -/
def crcShift (v : Half) : Half := if v.getLsbD 0 then (v >>> 1) ^^^ crcPoly else v >>> 1

/-- `T[i]` of R200: eight shifts of the index. -/
def crcTable (i : Byte) : Half := Nat.iterate crcShift 8 (i.setWidth 16)

/-- `crc_step(crc, b)` (R201). -/
def crcStep (crc : Half) (b : Byte) : Half := (crc >>> 8) ^^^ crcTable (b ^^^ loByte crc)

/-- `crc16` of a byte sequence (R202). -/
def crc16 (l : List Byte) : Half := l.foldl crcStep crcSeed

/-- `frame_crc` of R215: the CRC of the `rtu_length - 2` bytes from the unit id. -/
def State.frameCrc (s : State) : Half := crc16 (Memory.readRange s.buf rtuBase (s.rtuLength - 2))

/-- `6 + L` of R215: where the frame's CRC sits, low byte first. -/
def State.crcPos (s : State) : Nat := rtuBase + (s.rtuLength - 2)

/-- `stored_crc` of R215. -/
def State.storedCrc (s : State) : Half := le16 s.buf s.crcPos

/-- A frame command that needs a CRC position: FieldAbsent where `rtu_length < 2` (R207 to R209). -/
def withCrcPosition (s : State) (k : Outcome) : Outcome :=
  if s.rtuLength < 2 then raise .fieldAbsent s else k

/-! ### CRC commands -/

/-- CRC.INIT (R203): `CRC <- 0xFFFF`. -/
def execCrcInit (s : State) : Outcome := finish { s with crc := crcSeed }

/-- CRC.UPD (R204): `CRC <- crc_step(CRC, x[rs1][7:0])`. -/
def execCrcUpd (rs1 : Reg) (s : State) : Outcome :=
  finish { s with crc := crcStep s.crc ((s.getX rs1).extractLsb' 0 8) }

/-- CRC.RD (R205): `x[rd] <- zext_32(CRC)`. -/
def execCrcRd (rd : Reg) (s : State) : Outcome := finishReg rd (zextHalf s.crc) s

/-- CRC.BUF (R206): the CRC of a BUF range, from the seed, into CRC and x[rd]. -/
def execCrcBuf (rd rs1 rs2 : Reg) (s : State) : Outcome :=
  withBufRange rs1 rs2 s fun a n =>
    let c := crc16 (Memory.readRange s.buf a n)
    finishReg rd (zextHalf c) { s with crc := c }

/-- CRC.CALC (R207): the frame's computed CRC into CRC and x[rd]. -/
def execCrcCalc (rd : Reg) (s : State) : Outcome :=
  withCrcPosition s (finishReg rd (zextHalf s.frameCrc) { s with crc := s.frameCrc })

/-- CRC.STORED (R208): the frame's stored CRC into x[rd]; the engine is not run. -/
def execCrcStored (rd : Reg) (s : State) : Outcome :=
  withCrcPosition s (finishReg rd (zextHalf s.storedCrc) s)

/-- CRC.APPEND (R209): the frame's computed CRC into CRC and into its two bytes of BUF, low byte first. -/
def execCrcAppend (s : State) : Outcome :=
  withCrcPosition s (finish { s with crc := s.frameCrc, buf := setLe16 s.buf s.crcPos s.frameCrc })

/-! ### LRC commands, present when HAS_LRC = 1 (R210 to R214) -/

/-- The 8-bit sum of a byte sequence, from 0 (R210). -/
def lrcSum (l : List Byte) : Byte := l.foldl (· + ·) 0

/-- The value an LRC command returns: the two's complement of the running sum (R210, R213). -/
def lrcValue (sum : Byte) : Word := zextByte (-sum)

/-- With HAS_LRC = 0 the four opcodes are reserved encodings (R85, R87, R210). -/
def withLrc (s : State) (k : Outcome) : Outcome := if s.cfg.hasLrc then k else raise .reservedEncoding s

/-- LRC.INIT (R211): `LRC <- 0`. -/
def execLrcInit (s : State) : Outcome := withLrc s (finish { s with lrc := 0 })

/-- LRC.UPD (R212): `LRC <- (LRC + x[rs1][7:0]) mod 256`. -/
def execLrcUpd (rs1 : Reg) (s : State) : Outcome :=
  withLrc s (finish { s with lrc := s.lrc + (s.getX rs1).extractLsb' 0 8 })

/-- LRC.RD (R213): the two's complement of LRC into x[rd]. -/
def execLrcRd (rd : Reg) (s : State) : Outcome := withLrc s (finishReg rd (lrcValue s.lrc) s)

/-- LRC.BUF (R214): the sum of a BUF range, from 0, into LRC; its two's complement into x[rd]. -/
def execLrcBuf (rd rs1 rs2 : Reg) (s : State) : Outcome :=
  withLrc s (withBufRange rs1 rs2 s fun a n =>
    let sum := lrcSum (Memory.readRange s.buf a n)
    finishReg rd (lrcValue sum) { s with lrc := sum })

end Sys2Proof.Machine
end

