-- ==== Sys2Proof/Machine/FrameValues.lean ====
section
/-! DEFINITION. The register values codec and its commands (spec/44_frame_values.md R190 to R195). -/

namespace Sys2Proof.Machine

/-! ### The element codecs (R190, R191) -/

/-- `set(w)`: whether a word packs to a 1 bit, by COIL_TRUE_RULE (R190). -/
def coilSet (rule : CoilTrueRule) (h : Half) : Bool :=
  match rule with
  | .nonzero => h != 0
  | .eqFF00 => h == coilOn

/-- Element i of a bit payload at `off`: COIL_ON where bit `i mod 8` of byte `i div 8` is set, else 0 (R190). -/
def bitElement (buf : Mem 8) (off i : Nat) : Half :=
  if (Memory.read buf (off + i / 8)).getLsbD (i % 8) then coilOn else 0

/-- Element k of a word payload at `off`: the big-endian pair at bytes 2k, 2k+1 (R191). -/
def wordElement (buf : Mem 8) (off k : Nat) : Half := be16 buf (off + 2 * k)

/-- `elem(i)`: W[i] below `count`, zero from it on (R193). -/
def elem (w : Mem 16) (count i : Nat) : Half := if i < count then Memory.read w i else 0

/-- Payload byte k of a bit function: bit j is set where element 8k + j is (R190, R193). -/
def bitPayloadByte (rule : CoilTrueRule) (w : Mem 16) (count k : Nat) : Byte :=
  BitVec.ofNat 8
    ((List.range 8).map fun j => if coilSet rule (elem w count (8 * k + j)) then 2 ^ j else 0).sum

/-- Payload byte i of a word function: the high byte of element `i div 2` where i is even, else its low byte (R191). -/
def wordPayloadByte (w : Mem 16) (count i : Nat) : Byte :=
  if i % 2 = 0 then hiByte (elem w count (i / 2)) else loByte (elem w count (i / 2))

/-- The payload bytes of function `fc` from the elements W[0 .. count-1], every one of the `nbytes` written (R193,
R231's put_values). -/
def payload (rule : CoilTrueRule) (fc : Nat) (w : Mem 16) (count nbytes : Nat) : List Byte :=
  (List.range nbytes).map
    (if bitFn fc then bitPayloadByte rule w count else wordPayloadByte w count)

/-- The words the payload of function `fc` decodes to: 8 per byte for a bit function, one per pair otherwise, an odd
last byte ignored (R190 to R192). -/
def decodedWords (buf : Mem 8) (fc off bc : Nat) : List Half :=
  if bitFn fc then (List.range (8 * bc)).map (bitElement buf off)
  else (List.range (bc / 2)).map (wordElement buf off)

/-! ### Commands -/

/-- GETV (R192): the decoded words into W from 0, their number into x[rd]. -/
def execGetv (rd : Reg) (s : State) : Outcome :=
  match s.voff with
  | none => raise .fieldAbsent s
  | some off =>
    let ws := decodedWords s.buf s.fc7 off s.bcOrZero
    finishReg rd (BitVec.ofNat 32 ws.length) { s with w := Memory.writeRange s.w 0 ws }

/-- PUTV (R193): every payload byte from the elements W[0 .. x[rs1]-1], elements past the count zero. -/
def execPutv (rs1 : Reg) (s : State) : Outcome :=
  match s.voff with
  | none => raise .fieldAbsent s
  | some off =>
    if s.num rs1 > s.cfg.nw then raise .outOfRange s
    else finish { s with
      buf := Memory.writeRange s.buf off
        (payload s.cfg.coilTrueRule s.fc7 s.w (s.num rs1) s.bcOrZero) }

/-- GET.VOFF (R194): where the values start. -/
def execGetVoff (rd : Reg) (s : State) : Outcome := getField rd s.voff s

end Sys2Proof.Machine
end

