-- ==== Sys2Proof/Machine/BuildValidate.lean ====
section
/-! DEFINITION. Builders and validators (spec/47_build_validate.md R230 to R239). -/

namespace Sys2Proof.Machine

/-! ### BUILD (R230 to R232) -/

/-- `derived_bc(fc, count)` (R232). -/
def derivedBc (fc count : Nat) : Nat := if bitFn fc then ceilDiv count 8 else 2 * count

/-- The byte count BUILD stores: derived where the kind has a byte-count field, else 0 (R231). -/
def buildBc (rq : Bool) (fc count : Nat) : Nat :=
  match fcClass fc, rq with
  | .br, false => derivedBc fc count
  | .mw, true => derivedBc fc count
  | _, _ => 0

/-- The header BUF[0..3], BUF[6], BUF[7]: transaction id, protocol id 0, unit id, function-code byte (R231, R233). -/
def putHeader (b : Mem 8) (tid : Nat) (sid : Nat) (fcByte : Byte) : Mem 8 :=
  Memory.write
    (Memory.write (setBe16 (setBe16 b 0 (BitVec.ofNat 16 tid)) 2 0) 6 (BitVec.ofNat 8 sid)) 7 fcByte

/-- The payload of each kind of frame BUILD makes (R231). -/
def putPayload (rule : CoilTrueRule) (b : Mem 8) (w : Mem 16) (rq : Bool) (fc sa cnt bc : Nat) : Mem 8 :=
  match fcClass fc, rq with
  | .br, true => setBe16 (setBe16 b 8 (BitVec.ofNat 16 sa)) 10 (BitVec.ofNat 16 cnt)
  | .br, false =>
    Memory.writeRange (Memory.write b 8 (BitVec.ofNat 8 bc)) 9 (payload rule fc w cnt bc)
  | .sw, _ =>
    Memory.writeRange (setBe16 b 8 (BitVec.ofNat 16 sa)) 10 (payload rule fc w 1 2)
  | .mw, true =>
    Memory.writeRange
      (Memory.write (setBe16 (setBe16 b 8 (BitVec.ofNat 16 sa)) 10 (BitVec.ofNat 16 cnt)) 12
        (BitVec.ofNat 8 bc))
      13 (payload rule fc w cnt bc)
  | .mw, false => setBe16 (setBe16 b 8 (BitVec.ofNat 16 sa)) 10 (BitVec.ofNat 16 cnt)
  | .ot, _ => b

/-- The end of a builder (R231, R233): MBAP length `len - 2`, then the CRC of BUF[6 .. 6 + len - 3] into CRC and, low
byte first, after the frame. -/
def sealFrame (s : State) (b : Mem 8) (len : Nat) : State :=
  let b := setBe16 b 4 (BitVec.ofNat 16 (len - 2))
  let c := crc16 (Memory.readRange b rtuBase (len - 2))
  { s with crc := c, buf := setLe16 b (rtuBase + len - 2) c }

/-- The arguments BUILD accepts: each fits its field, the function code has a layout, and the byte count fits a byte
(R230 to R232). -/
def buildOk (rq : Bool) (sid fc sa cnt tid : Nat) : Bool :=
  decide (sid ≤ 0xFF) && decide (fc ≤ 0x7F) && (fcClass fc != .ot) && decide (sa ≤ 0xFFFF) &&
    decide (cnt ≤ 0xFFFF) && decide (tid ≤ 0xFFFF) && decide (buildBc rq fc cnt ≤ 0xFF)

/-- BUILD (R230, R231): x1 slave id, x2 function code, x3 start, x4 count, x5 transaction id, values in W. -/
def execBuild (rq : Bool) (s : State) : Outcome :=
  let sid := s.num 1
  let fc := s.num 2
  let sa := s.num 3
  let cnt := s.num 4
  let tid := s.num 5
  if buildOk rq sid fc sa cnt tid then
    let bc := buildBc rq fc cnt
    let b := putHeader s.buf tid sid (BitVec.ofNat 8 fc)
    let b := putPayload s.cfg.coilTrueRule b s.w rq fc sa cnt bc
    finish (sealFrame { s with dir := rq } b (calcRtuLength false rq fc bc))
  else raise .invalidArgument s

/-! ### BUILD.EXC (R233) -/

/-- The arguments BUILD.EXC accepts (R233). -/
def buildExcOk (sid fc ec tid : Nat) : Bool :=
  decide (sid ≤ 0xFF) && decide (fc ≤ 0x7F) && decide (ec ≤ 0xFF) && decide (tid ≤ 0xFFFF)

/-- BUILD.EXC (R233): x1 slave id, x2 function code, x3 exception code, x5 transaction id. -/
def execBuildExc (s : State) : Outcome :=
  let sid := s.num 1
  let fc := s.num 2
  let ec := s.num 3
  let tid := s.num 5
  if buildExcOk sid fc ec tid then
    let b := putHeader s.buf tid sid (0x80#8 ||| BitVec.ofNat 8 fc)
    let b := Memory.write b 8 (BitVec.ofNat 8 ec)
    finish (sealFrame { s with dir := false } b 5)
  else raise .invalidArgument s

/-! ### Validators (R234 to R236) -/

/-- `validate_common` (R234). -/
def State.validateCommon (s : State) : FrameStatus := if s.fc7 = 0 then .invalidFunctionCode else .ok

/-- VAL.RTU (R235): every outcome is a value in x[rd]; CRC is written when the comparison is reached. -/
def execValRtu (rd : Reg) (s : State) : Outcome :=
  if s.validateCommon ≠ .ok then finishReg rd s.validateCommon.code s
  else if s.rtuLength < 2 then finishReg rd FrameStatus.unknown.code s
  else if s.storedCrc = s.frameCrc then
    finishReg rd FrameStatus.ok.code { s with crc := s.frameCrc }
  else finishReg rd FrameStatus.invalidCrc.code { s with crc := s.frameCrc }

/-- VAL.TCP (R236): the tests in the order written; CRC is not touched. -/
def execValTcp (rd : Reg) (s : State) : Outcome :=
  if be16 s.buf 2 ≠ 0 then finishReg rd FrameStatus.protocolIdentifier.code s
  else if be16 s.buf 4 = 0 then finishReg rd FrameStatus.mbapHeaderLengthInvalid.code s
  else finishReg rd s.validateCommon.code s

end Sys2Proof.Machine
end

