-- ==== Sys2Proof/Machine/FrameFields.lean ====
section
/-! DEFINITION. Frame field getters and setters (spec/43_frame_fields.md R152 to R181). -/

namespace Sys2Proof.Machine

/-! ### Getters (R152 to R168) -/

/-- GET.TID (R152): `BE16(BUF, 0)`. -/
def execGetTid (rd : Reg) (s : State) : Outcome := getField rd (some (be16 s.buf 0).toNat) s

/-- GET.PID (R153): `BE16(BUF, 2)`. -/
def execGetPid (rd : Reg) (s : State) : Outcome := getField rd (some (be16 s.buf 2).toNat) s

/-- GET.MLEN (R154): `BE16(BUF, 4)`, the stored MBAP length. -/
def execGetMlen (rd : Reg) (s : State) : Outcome := getField rd (some (be16 s.buf 4).toNat) s

/-- GET.SID (R155): BUF[6]. -/
def execGetSid (rd : Reg) (s : State) : Outcome := getField rd (some (s.bufAt 6).toNat) s

/-- GET.FC (R156): the low seven bits of BUF[7]. -/
def execGetFc (rd : Reg) (s : State) : Outcome := getField rd (some s.fc7) s

/-- GET.SA (R157): `BE16(BUF, 8)` where the frame has a start address. -/
def execGetSa (rd : Reg) (s : State) : Outcome :=
  getField rd (if s.hasSa then some (be16 s.buf 8).toNat else none) s

/-- GET.RC (R158): the register count (R148). -/
def execGetRc (rd : Reg) (s : State) : Outcome := getField rd s.registerCount s

/-- GET.BC (R159): the byte count (R147). -/
def execGetBc (rd : Reg) (s : State) : Outcome := getField rd s.byteCount s

/-- GET.EC (R160): BUF[8] of an exception frame. -/
def execGetEc (rd : Reg) (s : State) : Outcome :=
  getField rd (if s.exc then some (s.bufAt 8).toNat else none) s

/-- GET.ISEXC (R161). -/
def execGetIsexc (rd : Reg) (s : State) : Outcome := getField rd (some s.exc.toNat) s

/-- GET.ISREQ (R162): the effective direction. -/
def execGetIsreq (rd : Reg) (s : State) : Outcome := getField rd (some s.req.toNat) s

/-- GET.HASSA (R163). -/
def execGetHassa (rd : Reg) (s : State) : Outcome := getField rd (some s.hasSa.toNat) s

/-- GET.HASRV (R164). -/
def execGetHasrv (rd : Reg) (s : State) : Outcome := getField rd (some s.hasRv.toNat) s

/-- GET.RTULEN (R165). -/
def execGetRtulen (rd : Reg) (s : State) : Outcome := getField rd (some s.rtuLength) s

/-- GET.PDULEN (R166). -/
def execGetPdulen (rd : Reg) (s : State) : Outcome := getField rd (some s.pduLength) s

/-- GET.TCPLEN (R167): `6 + BE16(BUF, 4)`. -/
def execGetTcplen (rd : Reg) (s : State) : Outcome := getField rd (some (6 + (be16 s.buf 4).toNat)) s

/-! ### Setters (R169 to R181): each changes only the bytes it names -/

/-- SET.TID (R170): `BE16(BUF, 0) <- v`. -/
def execSetTid (rs1 : Reg) (s : State) : Outcome :=
  setField rs1 true 0xFFFF s fun v => { s with buf := setBe16 s.buf 0 (BitVec.ofNat 16 v) }

/-- SET.PID (R171): `BE16(BUF, 2) <- v`. -/
def execSetPid (rs1 : Reg) (s : State) : Outcome :=
  setField rs1 true 0xFFFF s fun v => { s with buf := setBe16 s.buf 2 (BitVec.ofNat 16 v) }

/-- SET.MLEN (R172): `BE16(BUF, 4) <- v`. -/
def execSetMlen (rs1 : Reg) (s : State) : Outcome :=
  setField rs1 true 0xFFFF s fun v => { s with buf := setBe16 s.buf 4 (BitVec.ofNat 16 v) }

/-- SET.SID (R173): `BUF[6] <- v`. -/
def execSetSid (rs1 : Reg) (s : State) : Outcome :=
  setField rs1 true 0xFF s fun v => { s with buf := Memory.write s.buf 6 (BitVec.ofNat 8 v) }

/-- SET.FC (R174): bits 6:0 of BUF[7], the exception bit kept. -/
def execSetFc (rs1 : Reg) (s : State) : Outcome :=
  setField rs1 true 0x7F s fun v =>
    { s with buf := Memory.write s.buf 7 (BitVec.ofBool s.exc ++ BitVec.ofNat 7 v) }

/-- SET.SA (R175): `BE16(BUF, 8) <- v` where the frame has a start address. -/
def execSetSa (rs1 : Reg) (s : State) : Outcome :=
  setField rs1 s.hasSa 0xFFFF s fun v => { s with buf := setBe16 s.buf 8 (BitVec.ofNat 16 v) }

/-- SET.RC (R176): `BE16(BUF, 10) <- v` where the frame stores a register count. -/
def execSetRc (rs1 : Reg) (s : State) : Outcome :=
  setField rs1 s.rcOff.isSome 0xFFFF s fun v => { s with buf := setBe16 s.buf 10 (BitVec.ofNat 16 v) }

/-- SET.BC (R177): `BUF[bc_off] <- v` where the frame stores a byte count. -/
def execSetBc (rs1 : Reg) (s : State) : Outcome :=
  setField rs1 s.bcOff.isSome 0xFF s fun v =>
    { s with buf := Memory.write s.buf (s.bcOff.getD 0) (BitVec.ofNat 8 v) }

/-- SET.EC (R178): `BUF[8] <- v` of an exception frame. -/
def execSetEc (rs1 : Reg) (s : State) : Outcome :=
  setField rs1 s.exc 0xFF s fun v => { s with buf := Memory.write s.buf 8 (BitVec.ofNat 8 v) }

/-- SET.ISEXC (R179): bit 7 of BUF[7], the function code kept. -/
def execSetIsexc (rs1 : Reg) (s : State) : Outcome :=
  setField rs1 true 1 s fun v =>
    { s with buf := Memory.write s.buf 7 (BitVec.ofNat 1 v ++ (s.bufAt 7).extractLsb' 0 7) }

/-- SET.ISREQ (R180): `DIR <- v`. -/
def execSetIsreq (rs1 : Reg) (s : State) : Outcome :=
  setField rs1 true 1 s fun v => { s with dir := v == 1 }

end Sys2Proof.Machine
end

