-- ==== Sys2Proof/Machine/LengthTime.lean ====
section
/-! DEFINITION. Length and time commands (spec/46_length_time.md R220 to R225). Each writes x[rd] only. -/

namespace Sys2Proof.Machine

/-- CALC.RTULEN (R221): the length function on explicit arguments. -/
def execCalcRtulen (rd rs1 rs2 : Reg) (req exc : Bool) (s : State) : Outcome :=
  if s.num rs1 > 0x7F ∨ s.num rs2 > 0xFF then raise .invalidArgument s
  else finishReg rd
    (BitVec.ofNat 32 (calcRtuLength exc (req && !exc) (s.num rs1) (s.num rs2))) s

/-- `expected_response_rtu_length` (R222): for a bulk read, the length of a response of two bytes per register; else
the request's own length. Not truncated to a byte. -/
def State.expectedLength (s : State) : Nat :=
  if s.cls = .br then calcRtuLength false false s.fc7 ((be16 s.buf 10).toNat * 2) else s.rtuLength

/-- EXP.RLEN (R223): InvalidArgument unless the frame in BUF is a request. -/
def execExpRlen (rd : Reg) (s : State) : Outcome :=
  if s.req then finishReg rd (BitVec.ofNat 32 s.expectedLength) s else raise .invalidArgument s

/-- TXTIME (R224): 10 bits per byte times 1000 ms over the line rate, rounded as TXTIME_ROUNDING says (R5; the default is
the ceiling). -/
def execTxtime (rd rs1 rs2 : Reg) (s : State) : Outcome :=
  if s.num rs1 > 65535 ∨ s.num rs2 = 0 then raise .invalidArgument s
  else finishReg rd
    (BitVec.ofNat 32 (roundDiv s.cfg.txtimeRounding (txBitsPerByte * 1000 * s.num rs1) (s.num rs2))) s

end Sys2Proof.Machine
end

