-- ==== Sys2Proof/Machine/LoadStore.lean ====
section
/-! DEFINITION. Load and store commands (spec/41_load_store.md R110 to R116). -/

namespace Sys2Proof.Machine

/-- LDB (R110): `x[rd] <- zext_32(BUF[x[rs1]])`. -/
def execLdb (rd rs1 : Reg) (s : State) : Outcome :=
  withIndex bufCap rs1 s fun a => finishReg rd (zextByte (Memory.read s.buf a)) s

/-- STB (R111): `BUF[x[rs1]] <- x[rs2][7:0]`. -/
def execStb (rs1 rs2 : Reg) (s : State) : Outcome :=
  withIndex bufCap rs1 s fun a =>
    finish { s with buf := Memory.write s.buf a ((s.getX rs2).extractLsb' 0 8) }

/-- LDW (R112): `x[rd] <- zext_32(W[x[rs1]])`. -/
def execLdw (rd rs1 : Reg) (s : State) : Outcome :=
  withIndex s.cfg.nw rs1 s fun a => finishReg rd (zextHalf (Memory.read s.w a)) s

/-- STW (R113): `W[x[rs1]] <- x[rs2][15:0]`. -/
def execStw (rs1 rs2 : Reg) (s : State) : Outcome :=
  withIndex s.cfg.nw rs1 s fun a =>
    finish { s with w := Memory.write s.w a ((s.getX rs2).extractLsb' 0 16) }

/-- LDO (R114): `x[rd] <- zext_32(OCT[x[rs1]])`. -/
def execLdo (rd rs1 : Reg) (s : State) : Outcome :=
  withIndex s.cfg.no rs1 s fun a => finishReg rd (zextByte (Memory.read s.oct a)) s

/-- STO (R115): `OCT[x[rs1]] <- x[rs2][7:0]`. -/
def execSto (rs1 rs2 : Reg) (s : State) : Outcome :=
  withIndex s.cfg.no rs1 s fun a =>
    finish { s with oct := Memory.write s.oct a ((s.getX rs2).extractLsb' 0 8) }

end Sys2Proof.Machine
end

