-- ==== Sys2Proof/Machine/Packer.lean ====
section
/-! DEFINITION. The register packer (spec/42_packer.md R120 to R138). -/

namespace Sys2Proof.Machine

/-! ### Shared operations -/

/-- `(W[base] << 16) | W[base+1]`: the more significant word first (R53, R124). -/
def readPair (w : Mem 16) (base : Nat) : Word := Memory.read w base ++ Memory.read w (base + 1)

/-- `W[base] <- v[31:16]; W[base+1] <- v[15:0]` (R128). -/
def writePair (w : Mem 16) (base : Nat) (v : Word) : Mem 16 :=
  Memory.write (Memory.write w base (v.extractLsb' 16 16)) (base + 1) (v.extractLsb' 0 16)

/-- The bytes of W[base .. base+span-1], for each word the high byte then the low byte (R53, R130, R131). -/
def spanBytes (w : Mem 16) (base span : Nat) : List Byte :=
  (List.range span).flatMap fun k =>
    [hiByte (Memory.read w (base + k)), loByte (Memory.read w (base + k))]

/-- The bytes before the first zero byte: "read stops at first zero byte" (R130). -/
def stringBytes (l : List Byte) : List Byte := l.takeWhile (· ≠ 0)

/-- Word k of a packed string or vector of `len` bytes: OCT[2k] high, OCT[2k+1] low, 0x00 from `len` on (R132, R133). -/
def packedWord (oct : Mem 8) (len k : Nat) : Half :=
  half (if 2 * k < len then Memory.read oct (2 * k) else 0)
    (if 2 * k + 1 < len then Memory.read oct (2 * k + 1) else 0)

/-! ### Reads -/

/-- UNPK.U8 (R122): the high byte of W[base] for MSB, the low byte for LSB. -/
def execUnpkU8 (rd rs1 rs2 : Reg) (ord : ByteOrder) (s : State) : Outcome :=
  withSpan rs1 rs2 (fun span => span < 1) s fun base _ =>
    match ord with
    | .msb => finishReg rd (zextByte (hiByte (Memory.read s.w base))) s
    | .lsb => finishReg rd (zextByte (loByte (Memory.read s.w base))) s

/-- UNPK.U16 (R123): `x[rd] <- zext_32(W[base])`. -/
def execUnpkU16 (rd rs1 rs2 : Reg) (s : State) : Outcome :=
  withSpan rs1 rs2 (fun span => span < 1) s fun base _ =>
    finishReg rd (zextHalf (Memory.read s.w base)) s

/-- UNPK.U32 (R124): two words, high word first. -/
def execUnpkU32 (rd rs1 rs2 : Reg) (s : State) : Outcome :=
  withSpan rs1 rs2 (fun span => span < 2) s fun base _ => finishReg rd (readPair s.w base) s

/-- UNPK.F32 (R125, R135): the 32-bit pattern, bit for bit. -/
def execUnpkF32 (rd rs1 rs2 : Reg) (s : State) : Outcome :=
  withSpan rs1 rs2 (fun span => span < 2) s fun base _ => finishReg rd (readPair s.w base) s

/-- UNPK.STR (R130): the bytes of the slice up to the first zero byte into OCT from 0, their number into x[rd]; no
terminator is written. -/
def execUnpkStr (rd rs1 rs2 : Reg) (s : State) : Outcome :=
  withSpan rs1 rs2 (fun span => 2 * span > s.cfg.no) s fun base span =>
    let str := stringBytes (spanBytes s.w base span)
    finishReg rd (BitVec.ofNat 32 str.length) { s with oct := Memory.writeRange s.oct 0 str }

/-- UNPK.OCT (R131): all 2 * span bytes of the slice into OCT from 0, their number into x[rd]. -/
def execUnpkOct (rd rs1 rs2 : Reg) (s : State) : Outcome :=
  withSpan rs1 rs2 (fun span => 2 * span > s.cfg.no) s fun base span =>
    finishReg rd (BitVec.ofNat 32 (2 * span))
      { s with oct := Memory.writeRange s.oct 0 (spanBytes s.w base span) }

/-! ### Writes -/

/-- PACK.U8 (R126): v[7:0] into the high byte (MSB) or low byte (LSB) of W[base], the other byte kept. -/
def execPackU8 (rv rs1 rs2 : Reg) (ord : ByteOrder) (s : State) : Outcome :=
  withSpan rs1 rs2 (fun span => span < 1) s fun base _ =>
    let v : Byte := (s.getX rv).extractLsb' 0 8
    match ord with
    | .msb => finish { s with w := Memory.write s.w base (half v (loByte (Memory.read s.w base))) }
    | .lsb => finish { s with w := Memory.write s.w base (half (hiByte (Memory.read s.w base)) v) }

/-- PACK.U16 (R127): `W[base] <- x[rv][15:0]`. -/
def execPackU16 (rv rs1 rs2 : Reg) (s : State) : Outcome :=
  withSpan rs1 rs2 (fun span => span < 1) s fun base _ =>
    finish { s with w := Memory.write s.w base ((s.getX rv).extractLsb' 0 16) }

/-- PACK.U32 (R128): two words, high word first. -/
def execPackU32 (rv rs1 rs2 : Reg) (s : State) : Outcome :=
  withSpan rs1 rs2 (fun span => span < 2) s fun base _ =>
    finish { s with w := writePair s.w base (s.getX rv) }

/-- PACK.F32 (R129, R135): the 32-bit pattern, bit for bit. -/
def execPackF32 (rv rs1 rs2 : Reg) (s : State) : Outcome :=
  withSpan rs1 rs2 (fun span => span < 2) s fun base _ =>
    finish { s with w := writePair s.w base (s.getX rv) }

/-- PACK.STR (R132): every word of the span is written, zero bytes after the string's `len` bytes. -/
def execPackStr (rv rs1 rs2 : Reg) (s : State) : Outcome :=
  withSpanLen rv rs1 rs2 s fun base span len =>
    finish { s with w := Memory.writeRange s.w base ((List.range span).map (packedWord s.oct len)) }

/-- PACK.OCT (R133): only the `ceil_div(len, 2)` words the vector needs are written. -/
def execPackOct (rv rs1 rs2 : Reg) (s : State) : Outcome :=
  withSpanLen rv rs1 rs2 s fun base _ len =>
    finish { s with
      w := Memory.writeRange s.w base ((List.range (ceilDiv len 2)).map (packedWord s.oct len)) }

end Sys2Proof.Machine
end

