-- ==== Sys2Proof/Machine/System.lean ====
section
/-! DEFINITION. System and move commands (spec/40_system.md R100 to R106). -/

namespace Sys2Proof.Machine

/-- NOP (R100). -/
def execNop (s : State) : Outcome := finish s

/-- LDI (R101): `x[rd] <- zext_32(imm16)`. -/
def execLdi (rd : Reg) (imm : Half) (s : State) : Outcome := finishReg rd (zextHalf imm) s

/-- LDIH (R102): `x[rd] <- (imm16 << 16) | x[rd][15:0]`. -/
def execLdih (rd : Reg) (imm : Half) (s : State) : Outcome :=
  finishReg rd (imm ++ (s.getX rd).extractLsb' 0 16) s

/-- MOV (R103): `x[rd] <- x[rs1]`. -/
def execMov (rd rs1 : Reg) (s : State) : Outcome := finishReg rd (s.getX rs1) s

/-- CLRF (R104): `FERR <- 0`. -/
def execClrf (s : State) : Outcome := finish { s with ferr := 0 }

/-- RESET (R105, R281): every piece of state takes its reset value; its response is (Ok, 0). The parameters are no
state, and the host keeps its commands and the responses it has. -/
def execReset (s : State) : Outcome :=
  finish { State.resetOf s.cfg with pending := s.pending, responses := s.responses }

/-- RDERR (R106): `x[rd] <- zext_32(FERR)`. -/
def execRderr (rd : Reg) (s : State) : Outcome := finishReg rd (zextByte s.ferr) s

end Sys2Proof.Machine
end

