-- ==== Sys2Proof/Machine/Dispatch.lean ====
section
/-! DEFINITION. The dispatch: one arm per command, each one call of the command's meaning. -/

namespace Sys2Proof.Machine

/-- What command `i` does in state `s`. -/
def exec (i : Instr) (s : State) : Host.Outcome State Fault Refusal :=
  match i with
  | .nop => Sys2Proof.Machine.execNop s
  | .ldi rd imm => Sys2Proof.Machine.execLdi rd imm s
  | .ldih rd imm => Sys2Proof.Machine.execLdih rd imm s
  | .mov rd rs1 => Sys2Proof.Machine.execMov rd rs1 s
  | .clrf => Sys2Proof.Machine.execClrf s
  | .reset => Sys2Proof.Machine.execReset s
  | .rderr rd => Sys2Proof.Machine.execRderr rd s
  | .ldb rd rs1 => Sys2Proof.Machine.execLdb rd rs1 s
  | .stb rs1 rs2 => Sys2Proof.Machine.execStb rs1 rs2 s
  | .ldw rd rs1 => Sys2Proof.Machine.execLdw rd rs1 s
  | .stw rs1 rs2 => Sys2Proof.Machine.execStw rs1 rs2 s
  | .ldo rd rs1 => Sys2Proof.Machine.execLdo rd rs1 s
  | .sto rs1 rs2 => Sys2Proof.Machine.execSto rs1 rs2 s
  | .unpkU8 rd rs1 rs2 ord => Sys2Proof.Machine.execUnpkU8 rd rs1 rs2 ord s
  | .unpkU16 rd rs1 rs2 => Sys2Proof.Machine.execUnpkU16 rd rs1 rs2 s
  | .unpkU32 rd rs1 rs2 => Sys2Proof.Machine.execUnpkU32 rd rs1 rs2 s
  | .unpkF32 rd rs1 rs2 => Sys2Proof.Machine.execUnpkF32 rd rs1 rs2 s
  | .unpkStr rd rs1 rs2 => Sys2Proof.Machine.execUnpkStr rd rs1 rs2 s
  | .unpkOct rd rs1 rs2 => Sys2Proof.Machine.execUnpkOct rd rs1 rs2 s
  | .packU8 rv rs1 rs2 orv => Sys2Proof.Machine.execPackU8 rv rs1 rs2 orv s
  | .packU16 rv rs1 rs2 => Sys2Proof.Machine.execPackU16 rv rs1 rs2 s
  | .packU32 rv rs1 rs2 => Sys2Proof.Machine.execPackU32 rv rs1 rs2 s
  | .packF32 rv rs1 rs2 => Sys2Proof.Machine.execPackF32 rv rs1 rs2 s
  | .packStr rv rs1 rs2 => Sys2Proof.Machine.execPackStr rv rs1 rs2 s
  | .packOct rv rs1 rs2 => Sys2Proof.Machine.execPackOct rv rs1 rs2 s
  | .getTid rd => Sys2Proof.Machine.execGetTid rd s
  | .getPid rd => Sys2Proof.Machine.execGetPid rd s
  | .getMlen rd => Sys2Proof.Machine.execGetMlen rd s
  | .getSid rd => Sys2Proof.Machine.execGetSid rd s
  | .getFc rd => Sys2Proof.Machine.execGetFc rd s
  | .getSa rd => Sys2Proof.Machine.execGetSa rd s
  | .getRc rd => Sys2Proof.Machine.execGetRc rd s
  | .getBc rd => Sys2Proof.Machine.execGetBc rd s
  | .getEc rd => Sys2Proof.Machine.execGetEc rd s
  | .getIsexc rd => Sys2Proof.Machine.execGetIsexc rd s
  | .getIsreq rd => Sys2Proof.Machine.execGetIsreq rd s
  | .getHassa rd => Sys2Proof.Machine.execGetHassa rd s
  | .getHasrv rd => Sys2Proof.Machine.execGetHasrv rd s
  | .getRtulen rd => Sys2Proof.Machine.execGetRtulen rd s
  | .getPdulen rd => Sys2Proof.Machine.execGetPdulen rd s
  | .getTcplen rd => Sys2Proof.Machine.execGetTcplen rd s
  | .setTid rs1 => Sys2Proof.Machine.execSetTid rs1 s
  | .setPid rs1 => Sys2Proof.Machine.execSetPid rs1 s
  | .setMlen rs1 => Sys2Proof.Machine.execSetMlen rs1 s
  | .setSid rs1 => Sys2Proof.Machine.execSetSid rs1 s
  | .setFc rs1 => Sys2Proof.Machine.execSetFc rs1 s
  | .setSa rs1 => Sys2Proof.Machine.execSetSa rs1 s
  | .setRc rs1 => Sys2Proof.Machine.execSetRc rs1 s
  | .setBc rs1 => Sys2Proof.Machine.execSetBc rs1 s
  | .setEc rs1 => Sys2Proof.Machine.execSetEc rs1 s
  | .setIsexc rs1 => Sys2Proof.Machine.execSetIsexc rs1 s
  | .setIsreq rs1 => Sys2Proof.Machine.execSetIsreq rs1 s
  | .getv rd => Sys2Proof.Machine.execGetv rd s
  | .putv rs1 => Sys2Proof.Machine.execPutv rs1 s
  | .getVoff rd => Sys2Proof.Machine.execGetVoff rd s
  | .crcInit => Sys2Proof.Machine.execCrcInit s
  | .crcUpd rs1 => Sys2Proof.Machine.execCrcUpd rs1 s
  | .crcRd rd => Sys2Proof.Machine.execCrcRd rd s
  | .crcBuf rd rs1 rs2 => Sys2Proof.Machine.execCrcBuf rd rs1 rs2 s
  | .crcCalc rd => Sys2Proof.Machine.execCrcCalc rd s
  | .crcStored rd => Sys2Proof.Machine.execCrcStored rd s
  | .crcAppend => Sys2Proof.Machine.execCrcAppend s
  | .lrcInit => Sys2Proof.Machine.execLrcInit s
  | .lrcUpd rs1 => Sys2Proof.Machine.execLrcUpd rs1 s
  | .lrcRd rd => Sys2Proof.Machine.execLrcRd rd s
  | .lrcBuf rd rs1 rs2 => Sys2Proof.Machine.execLrcBuf rd rs1 rs2 s
  | .calcRtulen rd rs1 rs2 req exc => Sys2Proof.Machine.execCalcRtulen rd rs1 rs2 req exc s
  | .expRlen rd => Sys2Proof.Machine.execExpRlen rd s
  | .txtime rd rs1 rs2 => Sys2Proof.Machine.execTxtime rd rs1 rs2 s
  | .build req => Sys2Proof.Machine.execBuild req s
  | .buildExc => Sys2Proof.Machine.execBuildExc s
  | .valRtu rd => Sys2Proof.Machine.execValRtu rd s
  | .valTcp rd => Sys2Proof.Machine.execValTcp rd s

end Sys2Proof.Machine
end

