-- ==== Sys2Proof/Machine/Step.lean ====
section
/-! DEFINITION. One step: the block takes the next command the host issues and executes it whole (spec/10_state.md R20,
R23; spec/70_reset_and_hazards.md R294: "A model is untimed: one step per command"). -/

namespace Sys2Proof.Machine

/-- The host issues the next command: it leaves the list of commands still to issue (R20, R23). -/
def State.issued (s : State) : State := { s with pending := s.pending.tail }

/-- One command, from acceptance to response. A word that is no command ends with ReservedEncoding (R87); with no
command left the run has ended (R295). -/
def step (s : State) : Host.Outcome State Fault Refusal :=
  match s.pending with
  | [] => .fault .endOfRun
  | c :: _ =>
    match decode c with
    | some i => exec i s.issued
    | none => raise .reservedEncoding s.issued

/-- `s` with the command whose bits are `w` (numbered as opcode_table.json numbers them) as the next one the host
issues. -/
def State.withFetchWord (s : State) (nbits w : Nat) : State :=
  { s with pending := BitVec.ofNat 32 (w % 2 ^ nbits) :: s.pending }

end Sys2Proof.Machine
end

