-- ==== Sys2Proof/WellFormed.lean ====
section
/-! DEFINITION. When a command of the syntax is a command of the block. The field widths are in the types of `Instr`
(register numbers below 8, a 16-bit immediate, one-bit tags), so one check is left: the four LRC commands exist only
when HAS_LRC = 1 (spec/30_encoding.md R83, R85). -/

namespace Sys2Proof

/-- `i` is one of the block's commands under the parameters `c`: 69 commands always, the four LRC commands only when
HAS_LRC = 1 (R83, R85). -/
def WellFormed (c : Config) (i : Instr) : Bool := !i.isLrc || c.hasLrc

end Sys2Proof
end

