-- ==== Sys2Proof/Safety.lean ====
section
/-! DEFINITION. The terms the statements use. First the spec's own tables and layouts, written again from the spec and
not from the model's functions, so that a statement compares two readings. Then what a command's end is (status,
response, what it leaves unchanged), and the invariant of the machine. -/

namespace Sys2Proof

/-! ### The opcode map (spec/30_encoding.md R83, opcode_table.json) -/

/-- One row of the opcode map: a word w selects it when `w & mask == value`. -/
structure OpcodeRow where
  mask : Word
  value : Word
deriving DecidableEq, Repr

/-- The word selects the row (R83). -/
abbrev OpcodeRow.Selects (r : OpcodeRow) (w : Word) : Prop := w &&& r.mask = r.value

/-- The mask and match of the 73 rows of opcode_table.json, in its order. -/
def opcodeMap : List OpcodeRow :=
  [⟨0xFFFFFFFF, 0x00000000⟩, ⟨0x0000F8FF, 0x00000001⟩, ⟨0x0000F8FF, 0x00000002⟩, ⟨0xFFFFC0FF, 0x00000003⟩] ++
  [⟨0xFFFFFFFF, 0x00000004⟩, ⟨0xFFFFFFFF, 0x00000005⟩, ⟨0xFFFFF8FF, 0x00000006⟩, ⟨0xFFFFC0FF, 0x00000010⟩] ++
  [⟨0xFFFE07FF, 0x00000011⟩, ⟨0xFFFFC0FF, 0x00000012⟩, ⟨0xFFFE07FF, 0x00000013⟩, ⟨0xFFFFC0FF, 0x00000014⟩] ++
  [⟨0xFFFE07FF, 0x00000015⟩, ⟨0xFFFC00FF, 0x00000020⟩, ⟨0xFFFE00FF, 0x00000021⟩, ⟨0xFFFE00FF, 0x00000022⟩] ++
  [⟨0xFFFE00FF, 0x00000023⟩, ⟨0xFFFE00FF, 0x00000024⟩, ⟨0xFFFE00FF, 0x00000025⟩, ⟨0xFFFC00FF, 0x00000028⟩] ++
  [⟨0xFFFE00FF, 0x00000029⟩, ⟨0xFFFE00FF, 0x0000002A⟩, ⟨0xFFFE00FF, 0x0000002B⟩, ⟨0xFFFE00FF, 0x0000002C⟩] ++
  [⟨0xFFFE00FF, 0x0000002D⟩, ⟨0xFFFFF8FF, 0x00000030⟩, ⟨0xFFFFF8FF, 0x00000031⟩, ⟨0xFFFFF8FF, 0x00000032⟩] ++
  [⟨0xFFFFF8FF, 0x00000033⟩, ⟨0xFFFFF8FF, 0x00000034⟩, ⟨0xFFFFF8FF, 0x00000035⟩, ⟨0xFFFFF8FF, 0x00000036⟩] ++
  [⟨0xFFFFF8FF, 0x00000037⟩, ⟨0xFFFFF8FF, 0x00000038⟩, ⟨0xFFFFF8FF, 0x00000039⟩, ⟨0xFFFFF8FF, 0x0000003A⟩] ++
  [⟨0xFFFFF8FF, 0x0000003B⟩, ⟨0xFFFFF8FF, 0x0000003C⟩, ⟨0xFFFFF8FF, 0x0000003D⟩, ⟨0xFFFFF8FF, 0x0000003E⟩] ++
  [⟨0xFFFFF8FF, 0x0000003F⟩, ⟨0xFFFFC7FF, 0x00000040⟩, ⟨0xFFFFC7FF, 0x00000041⟩, ⟨0xFFFFC7FF, 0x00000042⟩] ++
  [⟨0xFFFFC7FF, 0x00000043⟩, ⟨0xFFFFC7FF, 0x00000044⟩, ⟨0xFFFFC7FF, 0x00000045⟩, ⟨0xFFFFC7FF, 0x00000046⟩] ++
  [⟨0xFFFFC7FF, 0x00000047⟩, ⟨0xFFFFC7FF, 0x00000048⟩, ⟨0xFFFFC7FF, 0x00000049⟩, ⟨0xFFFFC7FF, 0x0000004A⟩] ++
  [⟨0xFFFFF8FF, 0x00000050⟩, ⟨0xFFFFC7FF, 0x00000051⟩, ⟨0xFFFFF8FF, 0x00000052⟩, ⟨0xFFFFFFFF, 0x00000058⟩] ++
  [⟨0xFFFFC7FF, 0x00000059⟩, ⟨0xFFFFF8FF, 0x0000005A⟩, ⟨0xFFFE00FF, 0x0000005B⟩, ⟨0xFFFFF8FF, 0x0000005C⟩] ++
  [⟨0xFFFFF8FF, 0x0000005D⟩, ⟨0xFFFFFFFF, 0x0000005E⟩, ⟨0xFFFFFFFF, 0x00000060⟩, ⟨0xFFFFC7FF, 0x00000061⟩] ++
  [⟨0xFFFFF8FF, 0x00000062⟩, ⟨0xFFFE00FF, 0x00000063⟩, ⟨0xFFF200FF, 0x00000068⟩, ⟨0xFFFFF8FF, 0x00000069⟩] ++
  [⟨0xFFFE00FF, 0x0000006A⟩, ⟨0xFFFBFFFF, 0x00000070⟩, ⟨0xFFFFFFFF, 0x00000071⟩, ⟨0xFFFFF8FF, 0x00000072⟩] ++
  [⟨0xFFFFF8FF, 0x00000073⟩]

/-- The CRC table as spec/45_checksum.md R200 prints it. -/
def printedCrcTable : List Half :=
  [0x0000, 0xC0C1, 0xC181, 0x0140, 0xC301, 0x03C0, 0x0280, 0xC241] ++
  [0xC601, 0x06C0, 0x0780, 0xC741, 0x0500, 0xC5C1, 0xC481, 0x0440] ++
  [0xCC01, 0x0CC0, 0x0D80, 0xCD41, 0x0F00, 0xCFC1, 0xCE81, 0x0E40] ++
  [0x0A00, 0xCAC1, 0xCB81, 0x0B40, 0xC901, 0x09C0, 0x0880, 0xC841] ++
  [0xD801, 0x18C0, 0x1980, 0xD941, 0x1B00, 0xDBC1, 0xDA81, 0x1A40] ++
  [0x1E00, 0xDEC1, 0xDF81, 0x1F40, 0xDD01, 0x1DC0, 0x1C80, 0xDC41] ++
  [0x1400, 0xD4C1, 0xD581, 0x1540, 0xD701, 0x17C0, 0x1680, 0xD641] ++
  [0xD201, 0x12C0, 0x1380, 0xD341, 0x1100, 0xD1C1, 0xD081, 0x1040] ++
  [0xF001, 0x30C0, 0x3180, 0xF141, 0x3300, 0xF3C1, 0xF281, 0x3240] ++
  [0x3600, 0xF6C1, 0xF781, 0x3740, 0xF501, 0x35C0, 0x3480, 0xF441] ++
  [0x3C00, 0xFCC1, 0xFD81, 0x3D40, 0xFF01, 0x3FC0, 0x3E80, 0xFE41] ++
  [0xFA01, 0x3AC0, 0x3B80, 0xFB41, 0x3900, 0xF9C1, 0xF881, 0x3840] ++
  [0x2800, 0xE8C1, 0xE981, 0x2940, 0xEB01, 0x2BC0, 0x2A80, 0xEA41] ++
  [0xEE01, 0x2EC0, 0x2F80, 0xEF41, 0x2D00, 0xEDC1, 0xEC81, 0x2C40] ++
  [0xE401, 0x24C0, 0x2580, 0xE541, 0x2700, 0xE7C1, 0xE681, 0x2640] ++
  [0x2200, 0xE2C1, 0xE381, 0x2340, 0xE101, 0x21C0, 0x2080, 0xE041] ++
  [0xA001, 0x60C0, 0x6180, 0xA141, 0x6300, 0xA3C1, 0xA281, 0x6240] ++
  [0x6600, 0xA6C1, 0xA781, 0x6740, 0xA501, 0x65C0, 0x6480, 0xA441] ++
  [0x6C00, 0xACC1, 0xAD81, 0x6D40, 0xAF01, 0x6FC0, 0x6E80, 0xAE41] ++
  [0xAA01, 0x6AC0, 0x6B80, 0xAB41, 0x6900, 0xA9C1, 0xA881, 0x6840] ++
  [0x7800, 0xB8C1, 0xB981, 0x7940, 0xBB01, 0x7BC0, 0x7A80, 0xBA41] ++
  [0xBE01, 0x7EC0, 0x7F80, 0xBF41, 0x7D00, 0xBDC1, 0xBC81, 0x7C40] ++
  [0xB401, 0x74C0, 0x7580, 0xB541, 0x7700, 0xB7C1, 0xB681, 0x7640] ++
  [0x7200, 0xB2C1, 0xB381, 0x7340, 0xB101, 0x71C0, 0x7080, 0xB041] ++
  [0x5000, 0x90C1, 0x9181, 0x5140, 0x9301, 0x53C0, 0x5280, 0x9241] ++
  [0x9601, 0x56C0, 0x5780, 0x9741, 0x5500, 0x95C1, 0x9481, 0x5440] ++
  [0x9C01, 0x5CC0, 0x5D80, 0x9D41, 0x5F00, 0x9FC1, 0x9E81, 0x5E40] ++
  [0x5A00, 0x9AC1, 0x9B81, 0x5B40, 0x9901, 0x59C0, 0x5880, 0x9841] ++
  [0x8801, 0x48C0, 0x4980, 0x8941, 0x4B00, 0x8BC1, 0x8A81, 0x4A40] ++
  [0x4E00, 0x8EC1, 0x8F81, 0x4F40, 0x8D01, 0x4DC0, 0x4C80, 0x8C41] ++
  [0x4400, 0x84C1, 0x8581, 0x4540, 0x8701, 0x47C0, 0x4680, 0x8641] ++
  [0x8201, 0x42C0, 0x4380, 0x8341, 0x4100, 0x81C1, 0x8081, 0x4040]

namespace Machine

/-! ### The state's elements as numbers -/

/-- BUF[a] as a number. -/
def State.byte (s : State) (a : Nat) : Nat := (Memory.read s.buf a).toNat

/-- W[a] as a number. -/
def State.word (s : State) (a : Nat) : Nat := (Memory.read s.w a).toNat

/-- OCT[a] as a number. -/
def State.octet (s : State) (a : Nat) : Nat := (Memory.read s.oct a).toNat

/-! ### The kinds of frame (R59), read from DIR and BUF[7] alone -/

/-- The rows of the layout table (R59). -/
inductive FrameKind where
  /-- An exception frame, any function code. -/
  | exception
  /-- A request of 0x01 to 0x04. -/
  | readRequest
  /-- A response of 0x01 to 0x04. -/
  | readResponse
  /-- 0x05 or 0x06, request or response. -/
  | singleWrite
  /-- A request of 0x0F or 0x10. -/
  | writeRequest
  /-- A response of 0x0F or 0x10. -/
  | writeResponse
  /-- Any other function code. -/
  | other
deriving DecidableEq, Repr

/-- The row of R59's table for a direction and a function-code byte (bit 7 is the exception flag, R58). -/
def kindOf (dir : Bool) (b7 : Nat) : FrameKind :=
  if 128 ≤ b7 then .exception
  else if b7 ∈ [1, 2, 3, 4] then (if dir then .readRequest else .readResponse)
  else if b7 ∈ [5, 6] then .singleWrite
  else if b7 ∈ [15, 16] then (if dir then .writeRequest else .writeResponse)
  else .other

/-- The kind of the frame in BUF. -/
def State.kind (s : State) : FrameKind := kindOf s.dir (s.byte 7)

/-- The rtu_length column of R59's table, `bc` the stored byte count. -/
def FrameKind.length (k : FrameKind) (bc : Nat) : Nat :=
  match k with
  | .exception => 5
  | .readRequest => 8
  | .readResponse => 5 + bc
  | .singleWrite => 8
  | .writeRequest => 9 + bc
  | .writeResponse => 8
  | .other => 0

/-- Where a kind stores its byte count (R59): 8 in a read response, 12 in a multiple-write request. -/
def State.storedBc (s : State) : Nat :=
  match s.kind with
  | .readResponse => s.byte 8
  | .writeRequest => s.byte 12
  | _ => 0

/-- The length of the RTU image of the frame in BUF (R59). -/
def State.frameLength (s : State) : Nat := s.kind.length s.storedBc

/-- The bytes of BUF from `a`, `n` of them. -/
def State.bytes (s : State) (a n : Nat) : List Byte := (List.range n).map fun i => Memory.read s.buf (a + i)

/-- Where the register values of the frame in BUF start and how many bytes they take (R59: "values start" and the byte
count; two bytes in a single write); `none` in a kind that carries none. -/
def State.values (s : State) : Option (Nat × Nat) :=
  match s.kind with
  | .readResponse => some (9, s.byte 8)
  | .singleWrite => some (10, 2)
  | .writeRequest => some (13, s.byte 12)
  | _ => none

/-- The function code is a bit function: 0x01, 0x02 or 0x0F (R60). -/
abbrev BitFunction (fc : Nat) : Prop := fc ∈ [1, 2, 15]

/-- Byte i of the string W[base ..]: for each word the high byte, then the low byte (R53). -/
def State.spanByte (s : State) (base i : Nat) : Nat :=
  if i % 2 = 0 then s.word (base + i / 2) / 256 else s.word (base + i / 2) % 256

/-- Byte i of a string of `len` bytes in OCT, zero from `len` on (R132, R133). -/
def State.paddedOctet (s : State) (len i : Nat) : Nat := if i < len then s.octet i else 0

/-- A word of W counts as a set coil under the parameter COIL_TRUE_RULE (R190). -/
def countsAsSet (rule : CoilTrueRule) (word : Nat) : Bool :=
  match rule with
  | .nonzero => word != 0
  | .eqFF00 => word == 0xFF00

/-- Element i of the `count` words PUTV and BUILD take from W, zero from `count` on (R193). -/
def State.element (s : State) (count i : Nat) : Nat := if i < count then s.word i else 0

/-- The `bc` payload bytes at `off` of `t` hold the elements of `s` as function `fc` packs them (R190, R191, R193): one
bit per element for a bit function, least significant bit first; else the high byte of element i / 2 at even i and its
low byte at odd i. -/
def PacksElements (s t : State) (fc off bc count : Nat) : Prop :=
  if BitFunction fc then
    ∀ k < bc, ∀ j < 8, (t.byte (off + k) / 2 ^ j % 2 = 1 ↔
      countsAsSet s.cfg.coilTrueRule (s.element count (8 * k + j)) = true)
  else
    ∀ i < bc, t.byte (off + i) =
      if i % 2 = 0 then s.element count (i / 2) / 256 else s.element count (i / 2) % 256

/-- The CRC the frame in BUF should carry (R215): over the bytes from the unit id to the end of the PDU. -/
def State.computedCrc (s : State) : Half := crc16 (s.bytes 6 (s.frameLength - 2))

/-- The CRC bytes of the frame in BUF as a number, low byte first (R52, R215). -/
def State.crcBytes (s : State) : Nat :=
  s.byte (6 + (s.frameLength - 2)) + 256 * s.byte (6 + (s.frameLength - 2) + 1)

/-! ### The builders' arguments (R230 to R233) -/

/-- The byte count BUILD stores, in the two kinds that store one (R231, R232). -/
def builtBc (rq : Bool) (fc count : Nat) : Nat :=
  match kindOf rq fc with
  | .readResponse | .writeRequest => if BitFunction fc then (count + 7) / 8 else 2 * count
  | _ => 0

/-- The length of the frame BUILD makes (R231). -/
def builtLength (rq : Bool) (fc count : Nat) : Nat := (kindOf rq fc).length (builtBc rq fc count)

/-- BUILD accepts its operands (R230, R232): each in its range, a function code with a layout, a byte count that fits. -/
abbrev BuildAccepts (rq : Bool) (s : State) : Prop :=
  s.num 1 ≤ 0xFF ∧ s.num 2 ∈ [1, 2, 3, 4, 5, 6, 15, 16] ∧ s.num 3 ≤ 0xFFFF ∧ s.num 4 ≤ 0xFFFF ∧
    s.num 5 ≤ 0xFFFF ∧ builtBc rq (s.num 2) (s.num 4) ≤ 0xFF

/-- BUILD.EXC accepts its operands (R233). -/
abbrev BuildExcAccepts (s : State) : Prop :=
  s.num 1 ≤ 0xFF ∧ s.num 2 ≤ 0x7F ∧ s.num 3 ≤ 0xFF ∧ s.num 5 ≤ 0xFFFF

/-! ### How a command ends -/

/-- The command that took `s` to `t` ended with status `e` and response data `d` (R24, R25, R258). -/
structure Ended (s t : State) (e : Status) (d : Word) : Prop where
  status : t.status = e.code
  ferr : t.ferr = if s.ferr = 0 then e.code else s.ferr
  responses : t.responses = s.responses ++ [{ status := e.code, data := d }]

/-- What a command may write, beside STATUS, FERR and the response. -/
structure Footprint where
  /-- The destination register, if it has one. -/
  reg : Option Reg := none
  dir : Bool := false
  crc : Bool := false
  lrc : Bool := false
  /-- The elements of BUF, W and OCT it may write. -/
  buf : Nat → Prop := fun _ => False
  w : Nat → Prop := fun _ => False
  oct : Nat → Prop := fun _ => False

/-- Everything outside the footprint is as before: the other registers, DIR, CRC and LRC, and every element of BUF, W
and OCT; and the parameters and the host's pending commands. -/
structure KeepsBut (s t : State) (f : Footprint) : Prop where
  cfg : t.cfg = s.cfg
  pending : t.pending = s.pending
  regs : ∀ r, f.reg ≠ some r → t.getX r = s.getX r
  dir : f.dir = false → t.dir = s.dir
  crc : f.crc = false → t.crc = s.crc
  lrc : f.lrc = false → t.lrc = s.lrc
  buf : ∀ a, ¬ f.buf a → Memory.read t.buf a = Memory.read s.buf a
  w : ∀ a, ¬ f.w a → Memory.read t.w a = Memory.read s.w a
  oct : ∀ a, ¬ f.oct a → Memory.read t.oct a = Memory.read s.oct a

/-- The outcome `o` of a command in `s` is a next state in which the command has ended with `Ok`, its response data the
value of its destination register (0 without one, R258), everything outside the footprint as before, and `P` holds. -/
def Completes (s : State) (o : Outcome) (f : Footprint) (P : State → Prop) : Prop :=
  ∃ t, o = .next t ∧
    Ended s t .ok (match f.reg with | some r => t.getX r | none => 0) ∧ KeepsBut s t f ∧ P t

/-- The command completes, leaves the number `v` in x[rd], and writes nothing else. -/
def GivesReg (rd : Reg) (v : Nat) (s : State) (o : Outcome) : Prop :=
  Completes s o { reg := some rd } fun t => (t.getX rd).toNat = v

/-- The command ends with the failure status `e`: response data 0, STATUS and FERR as R24 and R25 say, and nothing else
changes (R256). -/
def FailsWith (e : Status) (s : State) (o : Outcome) : Prop :=
  o = .next { s with
    status := e.code
    ferr := if s.ferr = 0 then e.code else s.ferr
    responses := s.responses ++ [{ status := e.code, data := 0 }] }

/-- A getter's answer: the field's value, or FieldAbsent where the frame has no such field (R168). -/
def GivesField (rd : Reg) (v : Option Nat) (s : State) (o : Outcome) : Prop :=
  match v with
  | some n => GivesReg rd n s o
  | none => FailsWith .fieldAbsent s o

/-- The register a command writes on success (R83, column rd = w); a PACK command's rd field is read (R88). -/
def dest : Instr → Option Reg
  | .ldi rd _ | .ldih rd _ | .mov rd _ | .rderr rd | .ldb rd _ | .ldw rd _ | .ldo rd _ => some rd
  | .unpkU8 rd _ _ _ | .unpkU16 rd _ _ | .unpkU32 rd _ _ | .unpkF32 rd _ _ | .unpkStr rd _ _
  | .unpkOct rd _ _ => some rd
  | .getTid rd | .getPid rd | .getMlen rd | .getSid rd | .getFc rd | .getSa rd | .getRc rd | .getBc rd
  | .getEc rd | .getIsexc rd | .getIsreq rd | .getHassa rd | .getHasrv rd | .getRtulen rd
  | .getPdulen rd | .getTcplen rd | .getv rd | .getVoff rd => some rd
  | .crcRd rd | .crcBuf rd _ _ | .crcCalc rd | .crcStored rd | .lrcRd rd | .lrcBuf rd _ _ => some rd
  | .calcRtulen rd _ _ _ _ | .expRlen rd | .txtime rd _ _ | .valRtu rd | .valTcp rd => some rd
  | _ => none

/-- The statuses beside Ok that a command can end with (R251, the table); an LRC command is a reserved encoding when
HAS_LRC = 0 (R85). -/
def failureStatuses (c : Config) (i : Instr) : List Status :=
  if i.isLrc && !c.hasLrc then [.reservedEncoding] else
  match i with
  | .ldb _ _ | .stb _ _ | .ldw _ _ | .stw _ _ | .ldo _ _ | .sto _ _ => [.outOfRange]
  | .unpkU8 _ _ _ _ | .unpkU16 _ _ _ | .unpkU32 _ _ _ | .unpkF32 _ _ _ | .unpkStr _ _ _ | .unpkOct _ _ _
  | .packU8 _ _ _ _ | .packU16 _ _ _ | .packU32 _ _ _ | .packF32 _ _ _ | .packStr _ _ _
  | .packOct _ _ _ => [.outOfRange, .bufferTooSmall]
  | .getSa _ | .getRc _ | .getBc _ | .getEc _ | .getv _ | .getVoff _ => [.fieldAbsent]
  | .setTid _ | .setPid _ | .setMlen _ | .setSid _ | .setFc _ | .setIsexc _ | .setIsreq _ =>
    [.invalidArgument]
  | .setSa _ | .setRc _ | .setBc _ | .setEc _ => [.fieldAbsent, .invalidArgument]
  | .putv _ => [.fieldAbsent, .outOfRange]
  | .crcBuf _ _ _ | .lrcBuf _ _ _ => [.outOfRange]
  | .crcCalc _ | .crcStored _ | .crcAppend => [.fieldAbsent]
  | .calcRtulen _ _ _ _ _ | .expRlen _ | .txtime _ _ _ | .build _ | .buildExc => [.invalidArgument]
  | _ => []

/-! ### The invariant -/

/-- The machine's invariant: the parameters are values the spec admits; BUF, W and OCT are in canonical form inside their
sizes (R50); STATUS and FERR hold codes 0 to 5 (R250: codes 6 to 255 are never produced); and without the LRC engine
the LRC register, which does not exist then, is never written (R28). -/
structure State.Inv (s : State) : Prop where
  cfg : s.cfg.Admitted
  buf : Memory.wf bufCap s.buf
  w : Memory.wf s.cfg.nw s.w
  oct : Memory.wf s.cfg.no s.oct
  status : s.status.toNat ≤ 5
  ferr : s.ferr.toNat ≤ 5
  lrc : s.cfg.hasLrc = false → s.lrc = 0

end Machine

end Sys2Proof
end

