-- ==== Sys2Proof/Certificates/Slice0/Obligations.lean ====
section
/-! DEFINITION. The statements for the provers. Each compares the machine with a reading of the spec's rules that is
written in Safety.lean or here, not with the model's own functions. Where a statement speaks of `pending`, `responses` or
`cfg`, these are the model's own side of the host and of the parameters (DESIGN CHOICE, log 2 and log 3); the premise
`s.Inv` holds the parameters to the values the spec admits (log 4). -/

open Sys2Proof Sys2Proof.Machine

/-! ## Encoding -/

/-- R81 to R84: the decoder reads back every command the encoder writes, with every operand at every value. -/
def Obligations.DecodeReadsBackEncode : Prop := ∀ i : Instr, decode (encode i) = some i

/-- R81 to R84: a word that decodes is the one word of its command, so no bit of a legal word is ignored. -/
def Obligations.LegalWordIsItsCommandsOnlyWord : Prop :=
  ∀ (w : Word) (i : Instr), decode w = some i → encode i = w

/-- R83 to R87: a word is a command exactly when it selects a row of the opcode map, and it selects at most one of the 73
rows. -/
def Obligations.LegalWordsAreTheOpcodeMap : Prop :=
  opcodeMap.length = 73 ∧
  (∀ w : Word, (∃ i, decode w = some i) ↔ ∃ r ∈ opcodeMap, r.Selects w) ∧
  (∀ w : Word, ∀ r ∈ opcodeMap, ∀ r' ∈ opcodeMap, r.Selects w → r'.Selects w → r = r')

/-- R92: the worked encodings. -/
def Obligations.WorkedEncodingsDecode : Prop :=
  decode 0x00000000 = some .nop ∧
  decode 0x00110101 = some (.ldi 1 0x11) ∧
  decode 0x12340302 = some (.ldih 3 0x1234) ∧
  decode 0x00002A03 = some (.mov 2 5) ∧
  decode 0x00008811 = some (.stb 1 2) ∧
  decode 0x00028820 = some (.unpkU8 0 1 2 .lsb) ∧
  decode 0x00008B2A = some (.packU32 3 1 2) ∧
  decode 0x00040070 = some (.build true) ∧
  decode 0x00000070 = some (.build false) ∧
  decode 0x00088868 = some (.calcRtulen 0 1 2 false true) ∧
  decode 0x00000772 = some (.valRtu 7)

/-- R86: ORD = 1 is reserved on every command but UNPK.U8 and PACK.U8. LDI and LDIH (I-format) have no ORD field: bit 17
is a bit of their immediate (R82). -/
def Obligations.OrdTagReservedOffTheU8Commands : Prop :=
  ∀ w : Word, w.getLsbD 17 = true →
    opcodeOf w ≠ 0x20 → opcodeOf w ≠ 0x28 → opcodeOf w ≠ 0x01 → opcodeOf w ≠ 0x02 → decode w = none

/-! ## The step and the whole machine -/

/-- R20, R23, R294: where the next command the host issues decodes to `i`, the step is `exec i` in the state in which that
command is no longer pending. -/
def Obligations.StepRunsTheDecodedCommand : Prop :=
  ∀ (s : State) (c : Word) (rest : List Word) (i : Instr),
    s.pending = c :: rest → decode c = some i → step s = exec i { s with pending := rest }

/-- R87 (and R85 for the LRC commands when HAS_LRC = 0): a reserved encoding ends with ReservedEncoding and changes nothing
but STATUS and FERR. -/
def Obligations.ReservedEncodingIsRefused : Prop :=
  (∀ (s : State) (c : Word) (rest : List Word), s.pending = c :: rest → decode c = none →
    FailsWith .reservedEncoding { s with pending := rest } (step s)) ∧
  (∀ (s : State) (i : Instr), i.isLrc = true → s.cfg.hasLrc = false →
    FailsWith .reservedEncoding s (exec i s))

/-- R20, R23, R250, R258: every command word is executed to a next state: no word stops the machine. The command leaves
the pending list, STATUS is one of the codes 0 to 5, and exactly one response is given, with that status. -/
def Obligations.EveryCommandWordGetsOneResponse : Prop :=
  ∀ s : State, s.pending ≠ [] →
    ∃ (t : State) (d : Word), step s = .next t ∧ t.pending = s.pending.tail ∧ t.cfg = s.cfg ∧
      t.status.toNat ≤ 5 ∧ t.responses = s.responses ++ [{ status := t.status, data := d }]

/-- R254, R295: with no command left the run has ended. That the step then answers a fault is the model's choice (log 1). -/
def Obligations.RunEndsWhenNoCommandIsPending : Prop :=
  ∀ s : State, s.pending = [] → step s = .fault .endOfRun

/-- The invariant holds after reset, for every parameter value the spec admits. -/
def Obligations.InvariantHoldsAtReset : Prop :=
  State.reset.Inv ∧ ∀ c : Config, c.Admitted → (State.resetOf c).Inv

/-- Every step keeps the invariant: memories canonical and inside their spaces (R50), STATUS and FERR codes 0 to 5 (R250),
no LRC register without the LRC engine (R28). -/
def Obligations.StepKeepsTheInvariant : Prop :=
  ∀ s t : State, s.Inv → step s = .next t → t.Inv

/-- R256: a command that ends with a status other than Ok changes nothing except STATUS and FERR, and its response data
is 0; so does a command word that is no command. -/
def Obligations.FailureIsPrecise : Prop :=
  (∀ (i : Instr) (s t : State), exec i s = .next t → t.status ≠ 0 →
    ∃ e : Status, e ≠ .ok ∧ t.status = e.code ∧ FailsWith e s (exec i s)) ∧
  (∀ (s t : State) (c : Word) (rest : List Word), s.pending = c :: rest → step s = .next t → t.status ≠ 0 →
    ∃ e : Status, e ≠ .ok ∧ t.status = e.code ∧ FailsWith e { s with pending := rest } (step s))

/-- R25: FERR takes the first failure and keeps it, on every command word; CLRF and RESET set it to 0; RDERR reads it; it
changes the behaviour of no other command. -/
def Obligations.FerrRecordsTheFirstFailure : Prop :=
  (∀ (s t : State) (c : Word) (rest : List Word), s.pending = c :: rest → decode c ≠ some .clrf →
    decode c ≠ some .reset → step s = .next t →
    t.ferr = if s.ferr = 0 ∧ t.status ≠ 0 then t.status else s.ferr) ∧
  (∀ s t : State, exec .clrf s = .next t ∨ exec .reset s = .next t → t.ferr = 0) ∧
  (∀ (s : State) (rd : Reg), GivesReg rd s.ferr.toNat s (exec (.rderr rd) s)) ∧
  (∀ (i : Instr) (s t : State) (f : Byte), (∀ rd, i ≠ .rderr rd) → exec i s = .next t →
    ∃ f' : Byte, exec i { s with ferr := f } = .next { t with ferr := f' })

/-- R258: every command word gets one response. It carries STATUS and, for a command that writes a destination and ends
with Ok, the value written; 0 otherwise. -/
def Obligations.ResponseCarriesTheWrittenValue : Prop :=
  ∀ (s : State) (c : Word) (rest : List Word), s.pending = c :: rest →
    ∃ t, step s = .next t ∧ t.responses = s.responses ++
      [{ status := t.status
         data := match (decode c).bind dest with
           | some rd => if t.status = 0 then t.getX rd else 0
           | none => 0 }]

/-- R21, R22: a command writes no register but its destination (RESET writes all). -/
def Obligations.OnlyTheDestinationRegisterIsWritten : Prop :=
  ∀ (i : Instr) (s t : State) (r : Reg), i ≠ .reset → exec i s = .next t → dest i ≠ some r →
    t.getX r = s.getX r

/-- R251: a command ends with Ok or with one of the statuses the table lists for it. -/
def Obligations.StatusesAreThoseOfTheTable : Prop :=
  ∀ (i : Instr) (s t : State), exec i s = .next t →
    t.status = 0 ∨ ∃ e ∈ failureStatuses s.cfg i, t.status = e.code

/-- R26, R27, R28: the only commands that write DIR, CRC and LRC. -/
def Obligations.OnlyTheseCommandsWriteDirCrcLrc : Prop :=
  ∀ (i : Instr) (s t : State), i ≠ .reset → exec i s = .next t →
    ((∀ r, i ≠ .setIsreq r) → (∀ q, i ≠ .build q) → i ≠ .buildExc → t.dir = s.dir) ∧
    (i ≠ .crcInit → (∀ r, i ≠ .crcUpd r) → (∀ d a n, i ≠ .crcBuf d a n) → (∀ r, i ≠ .crcCalc r) →
      i ≠ .crcAppend → (∀ q, i ≠ .build q) → i ≠ .buildExc → (∀ r, i ≠ .valRtu r) → t.crc = s.crc) ∧
    (i ≠ .lrcInit → (∀ r, i ≠ .lrcUpd r) → (∀ d a n, i ≠ .lrcBuf d a n) → t.lrc = s.lrc)

/-- R31 and the summary of 10_state.md section 7: the commands that may write BUF, W and OCT; every other command leaves
the whole of that space as it is. -/
def Obligations.OnlyTheseCommandsWriteMemory : Prop :=
  ∀ (i : Instr) (s t : State), i ≠ .reset → exec i s = .next t →
    ((∀ a b, i ≠ .stb a b) → (∀ a, i ∉ [Instr.setTid a, .setPid a, .setMlen a, .setSid a, .setFc a, .setSa a,
        .setRc a, .setBc a, .setEc a, .setIsexc a, .putv a]) → i ≠ .crcAppend → (∀ q, i ≠ .build q) →
      i ≠ .buildExc → t.buf = s.buf) ∧
    ((∀ a b, i ≠ .stw a b) → (∀ v a b o, i ∉ [Instr.packU8 v a b o, .packU16 v a b, .packU32 v a b,
        .packF32 v a b, .packStr v a b, .packOct v a b]) → (∀ d, i ≠ .getv d) → t.w = s.w) ∧
    ((∀ a b, i ≠ .sto a b) → (∀ d a b, i ∉ [Instr.unpkStr d a b, .unpkOct d a b]) → t.oct = s.oct)

/-- R64, R65: BUF offsets 270 to 299 are ordinary bytes that no frame command touches: only STB and RESET write them. -/
def Obligations.NoFrameCommandTouchesBufAbove269 : Prop :=
  ∀ (i : Instr) (s t : State), s.Inv → i ≠ .reset → (∀ a b, i ≠ .stb a b) → exec i s = .next t →
    ∀ a, 270 ≤ a → Memory.read t.buf a = Memory.read s.buf a

/-! ## System commands -/

/-- R100 to R103, R106: NOP, LDI, LDIH, MOV and RDERR. -/
def Obligations.MoveCommandsGiveTheirValue : Prop :=
  ∀ (s : State) (rd rs1 : Reg) (imm : Half),
    Completes s (exec .nop s) {} (fun _ => True) ∧
    GivesReg rd imm.toNat s (exec (.ldi rd imm) s) ∧
    GivesReg rd (65536 * imm.toNat + s.num rd % 65536) s (exec (.ldih rd imm) s) ∧
    GivesReg rd (s.num rs1) s (exec (.mov rd rs1) s) ∧
    GivesReg rd s.ferr.toNat s (exec (.rderr rd) s)

/-- R104: the one word of CLRF; it sets FERR to 0 and changes nothing else but STATUS. -/
def Obligations.ClrfClearsFerrOnly : Prop :=
  (∀ w : Word, decode w = some .clrf ↔ w = 0x00000004) ∧
  ∀ s : State, exec .clrf s = .next { s with
    status := 0, ferr := 0, responses := s.responses ++ [{ status := 0, data := 0 }] }

/-- R33, R280: the state after reset, under any parameters; State.reset is that state under the default ones. -/
def Obligations.ResetStateValues : Prop :=
  State.reset = State.resetOf Config.default ∧
  ∀ c : Config, (∀ r, (State.resetOf c).getX r = 0) ∧ (State.resetOf c).status = 0 ∧
    (State.resetOf c).ferr = 0 ∧ (State.resetOf c).dir = false ∧ (State.resetOf c).crc = 0xFFFF ∧
    (State.resetOf c).lrc = 0 ∧
    ∀ a, (State.resetOf c).byte a = 0 ∧ (State.resetOf c).word a = 0 ∧ (State.resetOf c).octet a = 0

/-- R105, R281: RESET has exactly the effect of reset, under the same parameters, and its response is (Ok, 0). The host
keeps its pending commands and its earlier responses, which are no state of the block. -/
def Obligations.ResetCommandHasTheEffectOfReset : Prop :=
  ∀ s : State, ∃ t, exec .reset s = .next t ∧
    (∀ r, t.getX r = 0) ∧ t.status = 0 ∧ t.ferr = 0 ∧ t.dir = false ∧ t.crc = 0xFFFF ∧ t.lrc = 0 ∧
    (∀ a, t.byte a = 0 ∧ t.word a = 0 ∧ t.octet a = 0) ∧
    t.cfg = s.cfg ∧ t.pending = s.pending ∧ t.responses = s.responses ++ [{ status := 0, data := 0 }]

/-! ## Load and store -/

/-- R110, R112, R114, R116: a load gives the element at the index zero-extended, or OutOfRange. -/
def Obligations.LoadsGiveTheIndexedElement : Prop :=
  ∀ (s : State) (rd rs1 : Reg),
    (if s.num rs1 < 300 then GivesReg rd (s.byte (s.num rs1)) s (exec (.ldb rd rs1) s)
      else FailsWith .outOfRange s (exec (.ldb rd rs1) s)) ∧
    (if s.num rs1 < s.cfg.nw then GivesReg rd (s.word (s.num rs1)) s (exec (.ldw rd rs1) s)
      else FailsWith .outOfRange s (exec (.ldw rd rs1) s)) ∧
    (if s.num rs1 < s.cfg.no then GivesReg rd (s.octet (s.num rs1)) s (exec (.ldo rd rs1) s)
      else FailsWith .outOfRange s (exec (.ldo rd rs1) s))

/-- R111, R113, R115, R116: a store writes the low bits of x[rs2] to the one element at the index, or OutOfRange. -/
def Obligations.StoresWriteTheIndexedElement : Prop :=
  ∀ (s : State) (rs1 rs2 : Reg), s.Inv →
    (if s.num rs1 < 300 then
      Completes s (exec (.stb rs1 rs2) s) { buf := fun a => a = s.num rs1 }
        (fun t => t.byte (s.num rs1) = s.num rs2 % 256)
      else FailsWith .outOfRange s (exec (.stb rs1 rs2) s)) ∧
    (if s.num rs1 < s.cfg.nw then
      Completes s (exec (.stw rs1 rs2) s) { w := fun a => a = s.num rs1 }
        (fun t => t.word (s.num rs1) = s.num rs2 % 65536)
      else FailsWith .outOfRange s (exec (.stw rs1 rs2) s)) ∧
    (if s.num rs1 < s.cfg.no then
      Completes s (exec (.sto rs1 rs2) s) { oct := fun a => a = s.num rs1 }
        (fun t => t.octet (s.num rs1) = s.num rs2 % 256)
      else FailsWith .outOfRange s (exec (.sto rs1 rs2) s))

/-! ## Register packer -/

/-- R121 (checks 2 to 4), R137: a slice outside W raises OutOfRange whatever the type needs; then a length above NO raises
OutOfRange; then a slice or staging area too small for the type raises BufferTooSmall. -/
def Obligations.PackerChecksInOrder : Prop :=
  ∀ (s : State) (r rs1 rs2 : Reg) (ord : ByteOrder),
    (s.cfg.nw < s.num rs1 + s.num rs2 →
      ∀ i ∈ [Instr.unpkU8 r rs1 rs2 ord, .unpkU16 r rs1 rs2, .unpkU32 r rs1 rs2, .unpkF32 r rs1 rs2,
          .unpkStr r rs1 rs2, .unpkOct r rs1 rs2, .packU8 r rs1 rs2 ord, .packU16 r rs1 rs2,
          .packU32 r rs1 rs2, .packF32 r rs1 rs2, .packStr r rs1 rs2, .packOct r rs1 rs2],
        FailsWith .outOfRange s (exec i s)) ∧
    (s.num rs1 + s.num rs2 ≤ s.cfg.nw →
      (s.num rs2 < 1 → ∀ i ∈ [Instr.unpkU8 r rs1 rs2 ord, .unpkU16 r rs1 rs2, .packU8 r rs1 rs2 ord,
        .packU16 r rs1 rs2], FailsWith .bufferTooSmall s (exec i s)) ∧
      (s.num rs2 < 2 → ∀ i ∈ [Instr.unpkU32 r rs1 rs2, .unpkF32 r rs1 rs2, .packU32 r rs1 rs2,
        .packF32 r rs1 rs2], FailsWith .bufferTooSmall s (exec i s)) ∧
      (s.cfg.no < 2 * s.num rs2 → ∀ i ∈ [Instr.unpkStr r rs1 rs2, .unpkOct r rs1 rs2],
        FailsWith .bufferTooSmall s (exec i s)) ∧
      (∀ i ∈ [Instr.packStr r rs1 rs2, .packOct r rs1 rs2],
        (s.cfg.no < s.num r → FailsWith .outOfRange s (exec i s)) ∧
        (s.num r ≤ s.cfg.no → 2 * s.num rs2 < s.num r → FailsWith .bufferTooSmall s (exec i s))))

/-- R122 to R125, R137: a scalar read gives the byte, the word, or the two words with the more significant first. One word
is enough for u8 and u16, two for u32 and f32. -/
def Obligations.UnpackScalarsGiveTheWords : Prop :=
  ∀ (s : State) (rd rs1 rs2 : Reg), s.num rs1 + s.num rs2 ≤ s.cfg.nw →
    (1 ≤ s.num rs2 →
      GivesReg rd (s.word (s.num rs1) / 256) s (exec (.unpkU8 rd rs1 rs2 .msb) s) ∧
      GivesReg rd (s.word (s.num rs1) % 256) s (exec (.unpkU8 rd rs1 rs2 .lsb) s) ∧
      GivesReg rd (s.word (s.num rs1)) s (exec (.unpkU16 rd rs1 rs2) s)) ∧
    (2 ≤ s.num rs2 →
      GivesReg rd (65536 * s.word (s.num rs1) + s.word (s.num rs1 + 1)) s (exec (.unpkU32 rd rs1 rs2) s) ∧
      GivesReg rd (65536 * s.word (s.num rs1) + s.word (s.num rs1 + 1)) s (exec (.unpkF32 rd rs1 rs2) s))

/-- R130: UNPK.STR copies the bytes of the slice before the first zero byte into OCT from 0, writes no other byte of OCT,
and returns their number. -/
def Obligations.UnpackStringStopsAtTheFirstZero : Prop :=
  ∀ (s : State) (rd rs1 rs2 : Reg), s.Inv → s.num rs1 + s.num rs2 ≤ s.cfg.nw → 2 * s.num rs2 ≤ s.cfg.no →
    ∃ n ≤ 2 * s.num rs2,
      (∀ i < n, s.spanByte (s.num rs1) i ≠ 0) ∧
      (n < 2 * s.num rs2 → s.spanByte (s.num rs1) n = 0) ∧
      Completes s (exec (.unpkStr rd rs1 rs2) s) { reg := some rd, oct := fun a => a < n }
        (fun t => t.num rd = n ∧ ∀ i < n, t.octet i = s.spanByte (s.num rs1) i)

/-- R131: UNPK.OCT copies all bytes of the slice into OCT from 0 and returns their number. -/
def Obligations.UnpackOctetsCopiesTheSlice : Prop :=
  ∀ (s : State) (rd rs1 rs2 : Reg), s.Inv → s.num rs1 + s.num rs2 ≤ s.cfg.nw → 2 * s.num rs2 ≤ s.cfg.no →
    Completes s (exec (.unpkOct rd rs1 rs2) s) { reg := some rd, oct := fun a => a < 2 * s.num rs2 }
      (fun t => t.num rd = 2 * s.num rs2 ∧ ∀ i < 2 * s.num rs2, t.octet i = s.spanByte (s.num rs1) i)

/-- R126 to R129, R135: a scalar write writes one byte of W[base] and keeps the other (u8), the low 16 bits (u16), or the
two words with the more significant first (u32, f32). -/
def Obligations.PackScalarsWriteTheWords : Prop :=
  ∀ (s : State) (rv rs1 rs2 : Reg), s.Inv → s.num rs1 + s.num rs2 ≤ s.cfg.nw →
    (1 ≤ s.num rs2 →
      Completes s (exec (.packU8 rv rs1 rs2 .msb) s) { w := fun a => a = s.num rs1 }
        (fun t => t.word (s.num rs1) = 256 * (s.num rv % 256) + s.word (s.num rs1) % 256) ∧
      Completes s (exec (.packU8 rv rs1 rs2 .lsb) s) { w := fun a => a = s.num rs1 }
        (fun t => t.word (s.num rs1) = 256 * (s.word (s.num rs1) / 256) + s.num rv % 256) ∧
      Completes s (exec (.packU16 rv rs1 rs2) s) { w := fun a => a = s.num rs1 }
        (fun t => t.word (s.num rs1) = s.num rv % 65536)) ∧
    (2 ≤ s.num rs2 → ∀ i ∈ [Instr.packU32 rv rs1 rs2, .packF32 rv rs1 rs2],
      Completes s (exec i s) { w := fun a => a = s.num rs1 ∨ a = s.num rs1 + 1 }
        (fun t => t.word (s.num rs1) = s.num rv / 65536 ∧ t.word (s.num rs1 + 1) = s.num rv % 65536))

/-- R132, R133: PACK.STR writes every word of the span, zero bytes after the string; PACK.OCT writes only the words the
vector needs, a zero low byte in an odd last word, and keeps the rest of the span. -/
def Obligations.PackStringAndOctetsWriteTheSpan : Prop :=
  ∀ (s : State) (rv rs1 rs2 : Reg), s.Inv → s.num rs1 + s.num rs2 ≤ s.cfg.nw → s.num rv ≤ s.cfg.no →
    s.num rv ≤ 2 * s.num rs2 →
    Completes s (exec (.packStr rv rs1 rs2) s)
      { w := fun a => s.num rs1 ≤ a ∧ a < s.num rs1 + s.num rs2 }
      (fun t => ∀ k < s.num rs2, t.word (s.num rs1 + k) =
        256 * s.paddedOctet (s.num rv) (2 * k) + s.paddedOctet (s.num rv) (2 * k + 1)) ∧
    Completes s (exec (.packOct rv rs1 rs2) s)
      { w := fun a => s.num rs1 ≤ a ∧ a < s.num rs1 + (s.num rv + 1) / 2 }
      (fun t => ∀ k < (s.num rv + 1) / 2, t.word (s.num rs1 + k) =
        256 * s.paddedOctet (s.num rv) (2 * k) + s.paddedOctet (s.num rv) (2 * k + 1))

/-- R138 for the scalars: after a successful PACK.T, UNPK.T with the same base, span and order gives the value masked to
the width of T. -/
def Obligations.UnpackScalarReturnsWhatWasPacked : Prop :=
  ∀ (s t : State) (rv rd rs1 rs2 : Reg) (ord : ByteOrder), s.Inv → t.status = 0 →
    (exec (.packU8 rv rs1 rs2 ord) s = .next t →
      GivesReg rd (s.num rv % 256) t (exec (.unpkU8 rd rs1 rs2 ord) t)) ∧
    (exec (.packU16 rv rs1 rs2) s = .next t →
      GivesReg rd (s.num rv % 65536) t (exec (.unpkU16 rd rs1 rs2) t)) ∧
    (exec (.packU32 rv rs1 rs2) s = .next t →
      GivesReg rd (s.num rv) t (exec (.unpkU32 rd rs1 rs2) t)) ∧
    (exec (.packF32 rv rs1 rs2) s = .next t →
      GivesReg rd (s.num rv) t (exec (.unpkF32 rd rs1 rs2) t))

/-- R138 for strings, where the span fits OCT as R130 demands (log 5): after a successful PACK.STR, UNPK.STR with the same
base and span returns the bytes before the first zero byte among the `len` bytes packed. -/
def Obligations.UnpackStringReturnsThePackedString : Prop :=
  ∀ (s t : State) (rv rd rs1 rs2 : Reg), s.Inv → 2 * s.num rs2 ≤ s.cfg.no →
    exec (.packStr rv rs1 rs2) s = .next t → t.status = 0 →
    ∃ n ≤ s.num rv,
      (∀ i < n, s.octet i ≠ 0) ∧ (n < s.num rv → s.octet n = 0) ∧
      Completes t (exec (.unpkStr rd rs1 rs2) t) { reg := some rd, oct := fun a => a < n }
        (fun u => u.num rd = n ∧ ∀ i < n, u.octet i = s.octet i)

/-- R138 for octet vectors, where the span fits OCT as R131 demands (log 5): after a successful PACK.OCT, UNPK.OCT with the
same base and span returns the `len` bytes packed, a 0x00 that fills an odd last word, and then, in the words of the span
the vector did not need, the bytes that stood there before (R133). -/
def Obligations.UnpackOctetsReturnsThePackedVector : Prop :=
  ∀ (s t : State) (rv rd rs1 rs2 : Reg), s.Inv → 2 * s.num rs2 ≤ s.cfg.no →
    exec (.packOct rv rs1 rs2) s = .next t → t.status = 0 →
    Completes t (exec (.unpkOct rd rs1 rs2) t) { reg := some rd, oct := fun a => a < 2 * s.num rs2 }
      (fun u => u.num rd = 2 * s.num rs2 ∧ ∀ i < 2 * s.num rs2, u.octet i =
        if i < 2 * ((s.num rv + 1) / 2) then s.paddedOctet (s.num rv) i else s.spanByte (s.num rs1) i)

/-! ## Frame fields -/

/-- R152 to R156, R161, R162, R167: the getters of fields every frame has. -/
def Obligations.HeaderGettersGiveTheirField : Prop :=
  ∀ (s : State) (rd : Reg),
    GivesReg rd (256 * s.byte 0 + s.byte 1) s (exec (.getTid rd) s) ∧
    GivesReg rd (256 * s.byte 2 + s.byte 3) s (exec (.getPid rd) s) ∧
    GivesReg rd (256 * s.byte 4 + s.byte 5) s (exec (.getMlen rd) s) ∧
    GivesReg rd (s.byte 6) s (exec (.getSid rd) s) ∧
    GivesReg rd (s.byte 7 % 128) s (exec (.getFc rd) s) ∧
    GivesReg rd (s.byte 7 / 128) s (exec (.getIsexc rd) s) ∧
    GivesReg rd (if s.dir = true ∧ s.byte 7 < 128 then 1 else 0) s (exec (.getIsreq rd) s) ∧
    GivesReg rd (6 + (256 * s.byte 4 + s.byte 5)) s (exec (.getTcplen rd) s)

/-- R163 to R166 over the layout table R59: GET.HASSA, GET.HASRV, GET.RTULEN and GET.PDULEN of each kind of frame. -/
def Obligations.LayoutGettersFollowTheFrameKind : Prop :=
  ∀ (s : State) (rd : Reg),
    GivesReg rd (match s.kind with
      | .readRequest | .singleWrite | .writeRequest | .writeResponse => 1
      | .exception | .readResponse | .other => 0) s (exec (.getHassa rd) s) ∧
    GivesReg rd (match s.kind with
      | .readResponse | .singleWrite | .writeRequest => 1
      | .exception | .readRequest | .writeResponse | .other => 0) s (exec (.getHasrv rd) s) ∧
    GivesReg rd s.frameLength s (exec (.getRtulen rd) s) ∧
    GivesReg rd (s.frameLength - 3) s (exec (.getPdulen rd) s)

/-- R157 to R160, R194 over the layout table R59: GET.SA, GET.RC, GET.BC, GET.EC and GET.VOFF of each kind of frame, or
FieldAbsent where the kind has no such field. -/
def Obligations.ConditionalGettersFollowTheFrameKind : Prop :=
  ∀ (s : State) (rd : Reg),
    GivesField rd (match s.kind with
      | .readRequest | .singleWrite | .writeRequest | .writeResponse => some (256 * s.byte 8 + s.byte 9)
      | .exception | .readResponse | .other => none) s (exec (.getSa rd) s) ∧
    GivesField rd (match s.kind with
      | .readRequest | .writeRequest | .writeResponse => some (256 * s.byte 10 + s.byte 11)
      | .singleWrite => some 1
      | .readResponse => some (if BitFunction (s.byte 7) then s.byte 8 * 8 else s.byte 8 / 2)
      | .exception | .other => none) s (exec (.getRc rd) s) ∧
    GivesField rd (match s.kind with
      | .readRequest | .writeResponse => some 0
      | .singleWrite => some 2
      | .readResponse => some (s.byte 8)
      | .writeRequest => some (s.byte 12)
      | .exception | .other => none) s (exec (.getBc rd) s) ∧
    GivesField rd (match s.kind with
      | .exception => some (s.byte 8)
      | _ => none) s (exec (.getEc rd) s) ∧
    GivesField rd (match s.kind with
      | .readResponse => some 9
      | .singleWrite => some 10
      | .writeRequest => some 13
      | .exception | .readRequest | .writeResponse | .other => none) s (exec (.getVoff rd) s)

/-- R170 to R174, R179, R180: the setters of fields every frame has write the bytes they name and nothing else, or raise
InvalidArgument where the value does not fit. -/
def Obligations.HeaderSettersWriteTheirField : Prop :=
  ∀ (s : State) (rs1 : Reg), s.Inv →
    (∀ p ∈ [(Instr.setTid rs1, 0), (.setPid rs1, 2), (.setMlen rs1, 4)],
      if s.num rs1 ≤ 0xFFFF then
        Completes s (exec p.1 s) { buf := fun a => a = p.2 ∨ a = p.2 + 1 }
          (fun t => t.byte p.2 = s.num rs1 / 256 ∧ t.byte (p.2 + 1) = s.num rs1 % 256)
      else FailsWith .invalidArgument s (exec p.1 s)) ∧
    (if s.num rs1 ≤ 0xFF then
      Completes s (exec (.setSid rs1) s) { buf := fun a => a = 6 } (fun t => t.byte 6 = s.num rs1)
      else FailsWith .invalidArgument s (exec (.setSid rs1) s)) ∧
    (if s.num rs1 ≤ 0x7F then
      Completes s (exec (.setFc rs1) s) { buf := fun a => a = 7 }
        (fun t => t.byte 7 = 128 * (s.byte 7 / 128) + s.num rs1)
      else FailsWith .invalidArgument s (exec (.setFc rs1) s)) ∧
    (if s.num rs1 ≤ 1 then
      Completes s (exec (.setIsexc rs1) s) { buf := fun a => a = 7 }
        (fun t => t.byte 7 = 128 * s.num rs1 + s.byte 7 % 128)
      else FailsWith .invalidArgument s (exec (.setIsexc rs1) s)) ∧
    (if s.num rs1 ≤ 1 then
      Completes s (exec (.setIsreq rs1) s) { dir := true } (fun t => t.dir = decide (s.num rs1 = 1))
      else FailsWith .invalidArgument s (exec (.setIsreq rs1) s))

/-- R169, R175 to R178 over the layout table R59: SET.SA, SET.RC, SET.BC and SET.EC write the field where the kind of frame
stores it; FieldAbsent comes before InvalidArgument. -/
def Obligations.ConditionalSettersFollowTheFrameKind : Prop :=
  ∀ (s : State) (rs1 : Reg), s.Inv →
    (match s.kind with
      | .readRequest | .singleWrite | .writeRequest | .writeResponse =>
        if s.num rs1 ≤ 0xFFFF then
          Completes s (exec (.setSa rs1) s) { buf := fun a => a = 8 ∨ a = 9 }
            (fun t => t.byte 8 = s.num rs1 / 256 ∧ t.byte 9 = s.num rs1 % 256)
        else FailsWith .invalidArgument s (exec (.setSa rs1) s)
      | .exception | .readResponse | .other => FailsWith .fieldAbsent s (exec (.setSa rs1) s)) ∧
    (match s.kind with
      | .readRequest | .writeRequest | .writeResponse =>
        if s.num rs1 ≤ 0xFFFF then
          Completes s (exec (.setRc rs1) s) { buf := fun a => a = 10 ∨ a = 11 }
            (fun t => t.byte 10 = s.num rs1 / 256 ∧ t.byte 11 = s.num rs1 % 256)
        else FailsWith .invalidArgument s (exec (.setRc rs1) s)
      | .exception | .readResponse | .singleWrite | .other =>
        FailsWith .fieldAbsent s (exec (.setRc rs1) s)) ∧
    (match s.kind with
      | .readResponse =>
        if s.num rs1 ≤ 0xFF then
          Completes s (exec (.setBc rs1) s) { buf := fun a => a = 8 } (fun t => t.byte 8 = s.num rs1)
        else FailsWith .invalidArgument s (exec (.setBc rs1) s)
      | .writeRequest =>
        if s.num rs1 ≤ 0xFF then
          Completes s (exec (.setBc rs1) s) { buf := fun a => a = 12 } (fun t => t.byte 12 = s.num rs1)
        else FailsWith .invalidArgument s (exec (.setBc rs1) s)
      | .exception | .readRequest | .singleWrite | .writeResponse | .other =>
        FailsWith .fieldAbsent s (exec (.setBc rs1) s)) ∧
    (match s.kind with
      | .exception =>
        if s.num rs1 ≤ 0xFF then
          Completes s (exec (.setEc rs1) s) { buf := fun a => a = 8 } (fun t => t.byte 8 = s.num rs1)
        else FailsWith .invalidArgument s (exec (.setEc rs1) s)
      | _ => FailsWith .fieldAbsent s (exec (.setEc rs1) s))

/-! ## Frame register values -/

/-- R190 to R192: GETV decodes the payload into W from 0 and returns the number of words: for a bit function 8 words per
byte, 0xFF00 or 0 each, least significant bit first; else one word per big-endian pair, an odd last byte ignored. -/
def Obligations.GetvDecodesThePayload : Prop :=
  ∀ (s : State) (rd : Reg), s.Inv →
    match s.values with
    | none => FailsWith .fieldAbsent s (exec (.getv rd) s)
    | some (off, bc) =>
      if BitFunction (s.byte 7) then
        Completes s (exec (.getv rd) s) { reg := some rd, w := fun a => a < 8 * bc }
          (fun t => t.num rd = 8 * bc ∧ ∀ k < bc, ∀ j < 8,
            t.word (8 * k + j) = if s.byte (off + k) / 2 ^ j % 2 = 1 then 0xFF00 else 0)
      else
        Completes s (exec (.getv rd) s) { reg := some rd, w := fun a => a < bc / 2 }
          (fun t => t.num rd = bc / 2 ∧ ∀ k < bc / 2,
            t.word k = 256 * s.byte (off + 2 * k) + s.byte (off + 2 * k + 1))

/-- R193: PUTV rewrites exactly the payload bytes from the elements of W, zero from the count on; FieldAbsent comes before
OutOfRange. -/
def Obligations.PutvPacksTheElements : Prop :=
  ∀ (s : State) (rs1 : Reg), s.Inv →
    match s.values with
    | none => FailsWith .fieldAbsent s (exec (.putv rs1) s)
    | some (off, bc) =>
      if s.num rs1 ≤ s.cfg.nw then
        Completes s (exec (.putv rs1) s) { buf := fun a => off ≤ a ∧ a < off + bc }
          (fun t => PacksElements s t (s.byte 7) off bc (s.num rs1))
      else FailsWith .outOfRange s (exec (.putv rs1) s)

/-- R195: GETV after a successful PUTV of n elements returns, for a word function, the first bc / 2 elements, zero from n
on; for a bit function 8 * bc words, word i 0xFF00 exactly when i < n and W[i] counted as set. -/
def Obligations.GetvReturnsWhatPutvPacked : Prop :=
  ∀ (s t : State) (rs1 rd : Reg), s.Inv → exec (.putv rs1) s = .next t → t.status = 0 →
    ∃ off bc, s.values = some (off, bc) ∧
      if BitFunction (s.byte 7) then
        Completes t (exec (.getv rd) t) { reg := some rd, w := fun a => a < 8 * bc }
          (fun u => u.num rd = 8 * bc ∧ ∀ i < 8 * bc, u.word i =
            if i < s.num rs1 ∧ countsAsSet s.cfg.coilTrueRule (s.word i) = true then 0xFF00 else 0)
      else
        Completes t (exec (.getv rd) t) { reg := some rd, w := fun a => a < bc / 2 }
          (fun u => u.num rd = bc / 2 ∧ ∀ k < bc / 2, u.word k = s.element (s.num rs1) k)

/-! ## Checksums -/

/-- R200: each of the 256 entries the spec prints is the table's, which is eight shifts of its index. -/
def Obligations.CrcTableIsTheOnePrinted : Prop :=
  printedCrcTable.length = 256 ∧
  ∀ i : Byte, printedCrcTable[i.toNat]? = some (crcTable i) ∧
    crcTable i = Nat.iterate (fun v : Half => if v.getLsbD 0 then (v >>> 1) ^^^ 0xA001 else v >>> 1) 8
      (i.setWidth 16)

/-- R200, R201: one table-driven step is eight shift-and-exclusive-or steps of the polynomial on the accumulator with the
byte folded into its low half. -/
def Obligations.CrcStepIsEightPolynomialShifts : Prop :=
  ∀ (c : Half) (b : Byte), crcStep c b =
    Nat.iterate (fun v : Half => if v.getLsbD 0 then (v >>> 1) ^^^ 0xA001 else v >>> 1) 8
      (c ^^^ b.setWidth 16)

/-- R202, R203 to R205: CRC.INIT, CRC.UPD and CRC.RD; and `crc16` is the CRC.UPD step folded from the seed over the bytes in
rising order. -/
def Obligations.CrcStreamCommands : Prop :=
  (∀ s : State, Completes s (exec .crcInit s) { crc := true } (fun t => t.crc = 0xFFFF)) ∧
  (∀ (s : State) (rs1 : Reg), Completes s (exec (.crcUpd rs1) s) { crc := true } (fun t => t.crc =
    (s.crc >>> 8) ^^^ printedCrcTable.getD ((s.num rs1 % 256) ^^^ (s.crc.toNat % 256)) 0)) ∧
  (∀ (s : State) (rd : Reg), GivesReg rd s.crc.toNat s (exec (.crcRd rd) s)) ∧
  crc16 [] = 0xFFFF ∧
  (∀ (l : List Byte) (b : Byte), crc16 (l ++ [b]) =
    (crc16 l >>> 8) ^^^ printedCrcTable.getD (b.toNat ^^^ ((crc16 l).toNat % 256)) 0)

/-- R206: CRC.BUF gives the CRC of the range from the seed, in CRC and x[rd], or OutOfRange with the sum taken exactly. -/
def Obligations.CrcBufCoversTheRange : Prop :=
  ∀ (s : State) (rd rs1 rs2 : Reg),
    if s.num rs1 + s.num rs2 ≤ 300 then
      Completes s (exec (.crcBuf rd rs1 rs2) s) { reg := some rd, crc := true }
        (fun t => t.crc = crc16 (s.bytes (s.num rs1) (s.num rs2)) ∧ t.num rd = t.crc.toNat)
    else FailsWith .outOfRange s (exec (.crcBuf rd rs1 rs2) s)

/-- R207 to R209, R215: CRC.CALC, CRC.STORED and CRC.APPEND work at the CRC position of the frame's kind and raise
FieldAbsent in a kind that has none. -/
def Obligations.FrameCrcCommands : Prop :=
  ∀ (s : State) (rd : Reg), s.Inv →
    if s.kind = .other then
      FailsWith .fieldAbsent s (exec (.crcCalc rd) s) ∧ FailsWith .fieldAbsent s (exec (.crcStored rd) s) ∧
      FailsWith .fieldAbsent s (exec .crcAppend s)
    else
      Completes s (exec (.crcCalc rd) s) { reg := some rd, crc := true }
        (fun t => t.crc = s.computedCrc ∧ t.num rd = s.computedCrc.toNat) ∧
      GivesReg rd s.crcBytes s (exec (.crcStored rd) s) ∧
      Completes s (exec .crcAppend s)
        { crc := true, buf := fun a => a = s.frameLength + 4 ∨ a = s.frameLength + 5 }
        (fun t => t.crc = s.computedCrc ∧
          t.byte (s.frameLength + 4) = s.computedCrc.toNat % 256 ∧
          t.byte (s.frameLength + 5) = s.computedCrc.toNat / 256)

/-- R284 (from R209, R235): after a successful CRC.APPEND on a frame with a function code, VAL.RTU returns Ok. -/
def Obligations.AppendedCrcValidates : Prop :=
  ∀ (s t : State) (rd : Reg), s.Inv → exec .crcAppend s = .next t → t.status = 0 → s.byte 7 % 128 ≠ 0 →
    Completes t (exec (.valRtu rd) t) { reg := some rd, crc := true } (fun u => u.num rd = 0 ∧ u.crc = t.crc)

/-- R210 to R214, with HAS_LRC = 1: the LRC register holds the running sum modulo 256, and a read gives its two's
complement. -/
def Obligations.LrcCommandsSumTheBytes : Prop :=
  ∀ (s : State) (rd rs1 rs2 : Reg), s.cfg.hasLrc = true →
    Completes s (exec .lrcInit s) { lrc := true } (fun t => t.lrc = 0) ∧
    Completes s (exec (.lrcUpd rs1) s) { lrc := true }
      (fun t => t.lrc.toNat = (s.lrc.toNat + s.num rs1 % 256) % 256) ∧
    GivesReg rd ((256 - s.lrc.toNat) % 256) s (exec (.lrcRd rd) s) ∧
    (if s.num rs1 + s.num rs2 ≤ 300 then
      Completes s (exec (.lrcBuf rd rs1 rs2) s) { reg := some rd, lrc := true }
        (fun t => t.lrc.toNat = ((s.bytes (s.num rs1) (s.num rs2)).map BitVec.toNat).sum % 256 ∧
          t.num rd = (256 - t.lrc.toNat) % 256)
      else FailsWith .outOfRange s (exec (.lrcBuf rd rs1 rs2) s))

/-! ## Length and time -/

/-- R220, R221: CALC.RTULEN gives the length of the frame kind its arguments name, 5 for an exception, or InvalidArgument. -/
def Obligations.CalcRtulenGivesTheKindsLength : Prop :=
  ∀ (s : State) (rd rs1 rs2 : Reg) (req exc : Bool),
    if s.num rs1 ≤ 0x7F ∧ s.num rs2 ≤ 0xFF then
      GivesReg rd (if exc then 5 else (kindOf req (s.num rs1)).length (s.num rs2)) s
        (exec (.calcRtulen rd rs1 rs2 req exc) s)
    else FailsWith .invalidArgument s (exec (.calcRtulen rd rs1 rs2 req exc) s)

/-- R222, R223: EXP.RLEN of a request gives 5 + 2 * count for a read and the request's own length otherwise; of anything
else InvalidArgument. -/
def Obligations.ExpRlenPredictsFromTheRequest : Prop :=
  ∀ (s : State) (rd : Reg),
    if s.dir = true ∧ s.byte 7 < 128 then
      GivesReg rd (if s.kind = .readRequest then 5 + 2 * (256 * s.byte 10 + s.byte 11) else s.frameLength) s
        (exec (.expRlen rd) s)
    else FailsWith .invalidArgument s (exec (.expRlen rd) s)

/-- R224, TXTIME_ROUNDING of R5: with the default TXTIME gives the least number of milliseconds not below
10000 * len / bps; with the alternative the nearest one, a half going up, which is the model's reading (DEDUCED, log 10)
and no rule of the spec. -/
def Obligations.TxtimeRoundsTheQuotient : Prop :=
  ∀ (s : State) (rd rs1 rs2 : Reg),
    if s.num rs1 ≤ 65535 ∧ s.num rs2 ≠ 0 then
      ∃ v, GivesReg rd v s (exec (.txtime rd rs1 rs2) s) ∧
        match s.cfg.txtimeRounding with
        | .ceil => 10000 * s.num rs1 ≤ v * s.num rs2 ∧ v * s.num rs2 < 10000 * s.num rs1 + s.num rs2
        | .nearest =>
          2 * (10000 * s.num rs1) < 2 * (v * s.num rs2) + s.num rs2 ∧
            2 * (v * s.num rs2) ≤ 2 * (10000 * s.num rs1) + s.num rs2
    else FailsWith .invalidArgument s (exec (.txtime rd rs1 rs2) s)

/-! ## Builders and validators -/

/-- R230 to R232: the frame BUILD writes, byte by byte, when it accepts its operands. -/
def Obligations.BuildWritesTheFrame : Prop :=
  ∀ (s : State) (rq : Bool), s.Inv → BuildAccepts rq s →
    Completes s (exec (.build rq) s)
      { dir := true, crc := true, buf := fun a => a < 6 + builtLength rq (s.num 2) (s.num 4) }
      (fun t =>
        t.dir = rq ∧ 256 * t.byte 0 + t.byte 1 = s.num 5 ∧ t.byte 2 = 0 ∧ t.byte 3 = 0 ∧
        256 * t.byte 4 + t.byte 5 = builtLength rq (s.num 2) (s.num 4) - 2 ∧
        t.byte 6 = s.num 1 ∧ t.byte 7 = s.num 2 ∧
        (match kindOf rq (s.num 2) with
          | .readResponse =>
            t.byte 8 = builtBc rq (s.num 2) (s.num 4) ∧
            PacksElements s t (s.num 2) 9 (builtBc rq (s.num 2) (s.num 4)) (s.num 4)
          | .singleWrite => 256 * t.byte 8 + t.byte 9 = s.num 3 ∧ 256 * t.byte 10 + t.byte 11 = s.word 0
          | .writeRequest =>
            256 * t.byte 8 + t.byte 9 = s.num 3 ∧ 256 * t.byte 10 + t.byte 11 = s.num 4 ∧
            t.byte 12 = builtBc rq (s.num 2) (s.num 4) ∧
            PacksElements s t (s.num 2) 13 (builtBc rq (s.num 2) (s.num 4)) (s.num 4)
          | _ => 256 * t.byte 8 + t.byte 9 = s.num 3 ∧ 256 * t.byte 10 + t.byte 11 = s.num 4) ∧
        t.crc = crc16 (t.bytes 6 (builtLength rq (s.num 2) (s.num 4) - 2)) ∧
        t.byte (builtLength rq (s.num 2) (s.num 4) + 4) = t.crc.toNat % 256 ∧
        t.byte (builtLength rq (s.num 2) (s.num 4) + 5) = t.crc.toNat / 256)

/-- R230 to R233: a builder whose operands are out of range, or that has no layout for its function code, raises
InvalidArgument. -/
def Obligations.BuildersRefuseBadOperands : Prop :=
  ∀ s : State,
    (∀ rq, ¬ BuildAccepts rq s → FailsWith .invalidArgument s (exec (.build rq) s)) ∧
    (¬ BuildExcAccepts s → FailsWith .invalidArgument s (exec .buildExc s))

/-- R233: the eleven bytes BUILD.EXC writes when it accepts its operands. -/
def Obligations.BuildExcWritesTheFrame : Prop :=
  ∀ s : State, s.Inv → BuildExcAccepts s →
    Completes s (exec .buildExc s) { dir := true, crc := true, buf := fun a => a < 11 }
      (fun t =>
        t.dir = false ∧ 256 * t.byte 0 + t.byte 1 = s.num 5 ∧ t.byte 2 = 0 ∧ t.byte 3 = 0 ∧
        256 * t.byte 4 + t.byte 5 = 3 ∧ t.byte 6 = s.num 1 ∧ t.byte 7 = 128 + s.num 2 ∧
        t.byte 8 = s.num 3 ∧ t.crc = crc16 (t.bytes 6 3) ∧
        t.byte 9 = t.crc.toNat % 256 ∧ t.byte 10 = t.crc.toNat / 256)

/-- R237: after a BUILD, or a BUILD.EXC with a function code, that ends with Ok, VAL.RTU and VAL.TCP return Ok; after the
BUILD.EXC, GET.ISEXC gives 1, GET.FC gives x2 and GET.EC gives x3. -/
def Obligations.BuiltFrameValidates : Prop :=
  ∀ (s t : State) (rd : Reg), s.Inv → t.status = 0 →
    (∀ rq, exec (.build rq) s = .next t →
      Completes t (exec (.valRtu rd) t) { reg := some rd, crc := true } (fun u => u.num rd = 0) ∧
      GivesReg rd 0 t (exec (.valTcp rd) t)) ∧
    (exec .buildExc s = .next t →
      (s.num 2 ≠ 0 →
        Completes t (exec (.valRtu rd) t) { reg := some rd, crc := true } (fun u => u.num rd = 0) ∧
        GivesReg rd 0 t (exec (.valTcp rd) t)) ∧
      GivesReg rd 1 t (exec (.getIsexc rd) t) ∧ GivesReg rd (s.num 2) t (exec (.getFc rd) t) ∧
      GivesReg rd (s.num 3) t (exec (.getEc rd) t))

/-- R238: after a BUILD or BUILD.EXC that ends with Ok, GET.RTULEN = GET.MLEN + 2, GET.PDULEN = GET.MLEN - 1 and
GET.TCPLEN = GET.RTULEN + 4. -/
def Obligations.BuiltFrameLengthIdentity : Prop :=
  ∀ (s t : State) (rd : Reg), s.Inv → t.status = 0 →
    ((∃ rq, exec (.build rq) s = .next t) ∨ exec .buildExc s = .next t) →
    ∃ m, 1 ≤ m ∧ GivesReg rd m t (exec (.getMlen rd) t) ∧ GivesReg rd (m + 2) t (exec (.getRtulen rd) t) ∧
      GivesReg rd (m - 1) t (exec (.getPdulen rd) t) ∧ GivesReg rd (m + 2 + 4) t (exec (.getTcplen rd) t)

/-- R239: after a successful BUILD the getters give back its operands. -/
def Obligations.BuiltFrameReadsBack : Prop :=
  ∀ (s t : State) (rq : Bool) (rd : Reg), s.Inv → exec (.build rq) s = .next t → t.status = 0 →
    GivesReg rd (s.num 1) t (exec (.getSid rd) t) ∧
    GivesReg rd (s.num 2) t (exec (.getFc rd) t) ∧
    GivesReg rd (s.num 5) t (exec (.getTid rd) t) ∧
    GivesReg rd 0 t (exec (.getPid rd) t) ∧
    GivesReg rd 0 t (exec (.getIsexc rd) t) ∧
    GivesReg rd (if rq then 1 else 0) t (exec (.getIsreq rd) t) ∧
    GivesField rd (if kindOf rq (s.num 2) = .readResponse then none else some (s.num 3)) t
      (exec (.getSa rd) t) ∧
    GivesField rd (match kindOf rq (s.num 2) with
      | .singleWrite => some 1
      | .readResponse =>
        some (if BitFunction (s.num 2) then 8 * ((s.num 4 + 7) / 8) else s.num 4)
      | _ => some (s.num 4)) t (exec (.getRc rd) t) ∧
    (match kindOf rq (s.num 2) with
      | .readResponse | .writeRequest =>
        if BitFunction (s.num 2) then
          Completes t (exec (.getv rd) t)
            { reg := some rd, w := fun a => a < 8 * ((s.num 4 + 7) / 8) }
            (fun u => u.num rd = 8 * ((s.num 4 + 7) / 8) ∧ ∀ i < 8 * ((s.num 4 + 7) / 8), u.word i =
              if i < s.num 4 ∧ countsAsSet s.cfg.coilTrueRule (s.word i) = true then 0xFF00 else 0)
        else
          Completes t (exec (.getv rd) t) { reg := some rd, w := fun a => a < s.num 4 }
            (fun u => u.num rd = s.num 4 ∧ ∀ k < s.num 4, u.word k = s.word k)
      | .singleWrite =>
        Completes t (exec (.getv rd) t) { reg := some rd, w := fun a => a < 1 }
          (fun u => u.num rd = 1 ∧ u.word 0 = s.word 0)
      | _ => FailsWith .fieldAbsent t (exec (.getv rd) t))

/-- R234, R235: VAL.RTU reports InvalidFunctionCode (5), then Unknown (6) for a kind without a CRC position, then compares
the CRCs, leaving the computed one in CRC: Ok (0) or InvalidCrc (3). Its own status is Ok. -/
def Obligations.ValRtuReportsTheFrameStatus : Prop :=
  ∀ (s : State) (rd : Reg),
    if s.byte 7 % 128 = 0 then GivesReg rd 5 s (exec (.valRtu rd) s)
    else if s.kind = .other then GivesReg rd 6 s (exec (.valRtu rd) s)
    else Completes s (exec (.valRtu rd) s) { reg := some rd, crc := true }
      (fun t => t.crc = s.computedCrc ∧ t.num rd = if s.crcBytes = s.computedCrc.toNat then 0 else 3)

/-- R234, R236: VAL.TCP tests the protocol id, then the MBAP length, then the function code. -/
def Obligations.ValTcpReportsTheFrameStatus : Prop :=
  ∀ (s : State) (rd : Reg),
    GivesReg rd
      (if 256 * s.byte 2 + s.byte 3 ≠ 0 then 1
        else if 256 * s.byte 4 + s.byte 5 = 0 then 2
        else if s.byte 7 % 128 = 0 then 5 else 0) s (exec (.valTcp rd) s)
end

