-- ==== Sys2Proof/Laws/Decode.lean ====
section
/-! SUPPORT. The fields of the two word formats, read back from the words the encoder builds. Proofs about decoding cite
these and unfold no word. -/

namespace Sys2Proof

@[simp] theorem toFin_regField (r : Reg) : (regField r).toFin = r := rfl

@[simp] theorem regField_zero : regField 0 = 0#3 := rfl

theorem regField_eq_zero (r : Reg) : regField r = 0#3 ↔ r = 0 :=
  ⟨fun h => by rw [← toFin_regField r, h]; rfl, fun h => by rw [h]; rfl⟩

@[simp] theorem ite_bit_ordOf (o : ByteOrder) : (if o.bit then ByteOrder.lsb else .msb) = o := by
  cases o <;> rfl

/-- A bit of an R-format word (R81). -/
theorem getLsbD_rWord (op : Byte) (rd rs1 rs2 : Reg) (o q e : Bool) (k : Nat) :
    (rWord op rd rs1 rs2 o q e).getLsbD k =
      if k < 8 then op.getLsbD k
      else if k < 11 then (regField rd).getLsbD (k - 8)
      else if k < 14 then (regField rs1).getLsbD (k - 11)
      else if k < 17 then (regField rs2).getLsbD (k - 14)
      else if k = 17 then o else if k = 18 then q else if k = 19 then e else false := by
  by_cases hk : k < 20
  · simp only [rWord, BitVec.getLsbD_append]
    interval_cases k <;> simp
  · simp only [rWord, BitVec.getLsbD_append]
    rw [if_neg (by omega), if_neg (by omega), if_neg (by omega), if_neg (by omega), if_neg (by omega),
      if_neg (by omega), if_neg (by omega)]
    simp [show k ≠ 19 by omega]

/-- A bit of an I-format word (R82). -/
theorem getLsbD_iWord (op : Byte) (rd : Reg) (imm : Half) (k : Nat) :
    (iWord op rd imm).getLsbD k =
      if k < 8 then op.getLsbD k
      else if k < 11 then (regField rd).getLsbD (k - 8)
      else if k < 16 then false
      else imm.getLsbD (k - 16) := by
  by_cases hk : k < 16
  · simp only [iWord, BitVec.getLsbD_append]
    interval_cases k <;> simp
  · simp only [iWord, BitVec.getLsbD_append]
    rw [if_neg (by omega), if_neg (by omega), if_neg (by omega)]
    simp [hk]

section rWord

variable (op : Byte) (rd rs1 rs2 : Reg) (o q e : Bool)

@[simp] theorem opcodeOf_rWord : opcodeOf (rWord op rd rs1 rs2 o q e) = op := by
  ext k hk
  simp [opcodeOf, getLsbD_rWord, hk]

@[simp] theorem rdOf_rWord : rdOf (rWord op rd rs1 rs2 o q e) = rd := by
  have : (rWord op rd rs1 rs2 o q e).extractLsb' 8 3 = regField rd := by
    ext k hk
    simp [← BitVec.getLsbD_eq_getElem, getLsbD_rWord, hk, show 8 + k < 11 by omega]
  simp [rdOf, this]

@[simp] theorem rs1Of_rWord : rs1Of (rWord op rd rs1 rs2 o q e) = rs1 := by
  have : (rWord op rd rs1 rs2 o q e).extractLsb' 11 3 = regField rs1 := by
    ext k hk
    simp [← BitVec.getLsbD_eq_getElem, getLsbD_rWord, hk, show 11 + k < 14 by omega, show ¬ 11 + k < 8 by omega]
  simp [rs1Of, this]

@[simp] theorem rs2Of_rWord : rs2Of (rWord op rd rs1 rs2 o q e) = rs2 := by
  have : (rWord op rd rs1 rs2 o q e).extractLsb' 14 3 = regField rs2 := by
    ext k hk
    simp [← BitVec.getLsbD_eq_getElem, getLsbD_rWord, hk, show 14 + k < 17 by omega, show ¬ 14 + k < 8 by omega,
      show ¬ 14 + k < 11 by omega]
  simp [rs2Of, this]

@[simp] theorem ordOf_rWord : ordOf (rWord op rd rs1 rs2 o q e) = if o then .lsb else .msb := by
  simp only [ordOf, getLsbD_rWord]; rfl

@[simp] theorem reqOf_rWord : reqOf (rWord op rd rs1 rs2 o q e) = q := by
  simp only [reqOf, getLsbD_rWord]; rfl

@[simp] theorem excOf_rWord : excOf (rWord op rd rs1 rs2 o q e) = e := by
  simp only [excOf, getLsbD_rWord]; rfl

/-- Bits `a .. a + n - 1` of the word are zero exactly when each of them is. -/
theorem extract_eq_zero_iff (w : Word) (a n : Nat) :
    w.extractLsb' a n = 0#n ↔ ∀ k < n, w.getLsbD (a + k) = false := by
  constructor
  · intro h k hk
    have := congrArg (fun v : BitVec n => v.getLsbD k) h
    simpa [hk] using this
  · intro h
    ext k hk
    simpa using h k hk

end rWord

/-! ### The fields a form leaves zero (R84) -/

@[simp] theorem zero_rWord_none (op : Byte) :
    (rWord op 0 0 0 false false false).extractLsb' 8 24 = 0#24 :=
  (extract_eq_zero_iff _ _ _).2 fun k hk => by
    rw [getLsbD_rWord]
    interval_cases k <;> simp

@[simp] theorem zero_rWord_rd (op : Byte) (rd : Reg) :
    (rWord op rd 0 0 false false false).extractLsb' 11 21 = 0#21 :=
  (extract_eq_zero_iff _ _ _).2 fun k hk => by
    rw [getLsbD_rWord]
    interval_cases k <;> simp

@[simp] theorem zero_rWord_rs1_low (op : Byte) (rs1 rs2 : Reg) (o q e : Bool) :
    (rWord op 0 rs1 rs2 o q e).extractLsb' 8 3 = 0#3 :=
  (extract_eq_zero_iff _ _ _).2 fun k hk => by
    rw [getLsbD_rWord]
    interval_cases k <;> simp

@[simp] theorem zero_rWord_rs1 (op : Byte) (rd rs1 : Reg) :
    (rWord op rd rs1 0 false false false).extractLsb' 14 18 = 0#18 :=
  (extract_eq_zero_iff _ _ _).2 fun k hk => by
    rw [getLsbD_rWord]
    interval_cases k <;> simp

@[simp] theorem zero_rWord_rs2 (op : Byte) (rd rs1 rs2 : Reg) :
    (rWord op rd rs1 rs2 false false false).extractLsb' 17 15 = 0#15 :=
  (extract_eq_zero_iff _ _ _).2 fun k hk => by
    rw [getLsbD_rWord]
    interval_cases k <;> simp

@[simp] theorem zero_rWord_ord (op : Byte) (rd rs1 rs2 : Reg) (o : Bool) :
    (rWord op rd rs1 rs2 o false false).extractLsb' 18 14 = 0#14 :=
  (extract_eq_zero_iff _ _ _).2 fun k hk => by
    rw [getLsbD_rWord]
    interval_cases k <;> simp

@[simp] theorem zero_rWord_calc_ord (op : Byte) (rd rs1 rs2 : Reg) (q e : Bool) :
    (rWord op rd rs1 rs2 false q e).extractLsb' 17 1 = 0#1 :=
  (extract_eq_zero_iff _ _ _).2 fun k hk => by
    rw [getLsbD_rWord]
    interval_cases k
    simp

@[simp] theorem zero_rWord_calc (op : Byte) (rd rs1 rs2 : Reg) (o q e : Bool) :
    (rWord op rd rs1 rs2 o q e).extractLsb' 20 12 = 0#12 :=
  (extract_eq_zero_iff _ _ _).2 fun k hk => by
    rw [getLsbD_rWord]
    interval_cases k <;> simp

@[simp] theorem zero_rWord_build_low (op : Byte) (q e : Bool) :
    (rWord op 0 0 0 false q e).extractLsb' 8 10 = 0#10 :=
  (extract_eq_zero_iff _ _ _).2 fun k hk => by
    rw [getLsbD_rWord]
    interval_cases k <;> simp

@[simp] theorem zero_rWord_build (op : Byte) (rd rs1 rs2 : Reg) (o q : Bool) :
    (rWord op rd rs1 rs2 o q false).extractLsb' 19 13 = 0#13 :=
  (extract_eq_zero_iff _ _ _).2 fun k hk => by
    rw [getLsbD_rWord]
    interval_cases k <;> simp

section iWord

variable (op : Byte) (rd : Reg) (imm : Half)

@[simp] theorem opcodeOf_iWord : opcodeOf (iWord op rd imm) = op := by
  ext k hk
  simp [opcodeOf, getLsbD_iWord, hk]

@[simp] theorem rdOf_iWord : rdOf (iWord op rd imm) = rd := by
  have : (iWord op rd imm).extractLsb' 8 3 = regField rd := by
    ext k hk
    simp [← BitVec.getLsbD_eq_getElem, getLsbD_iWord, hk, show 8 + k < 11 by omega]
  simp [rdOf, this]

@[simp] theorem immOf_iWord : immOf (iWord op rd imm) = imm := by
  ext k hk
  simp [← BitVec.getLsbD_eq_getElem, immOf, getLsbD_iWord, hk, show ¬ 16 + k < 8 by omega, show ¬ 16 + k < 11 by omega,
    show ¬ 16 + k < 16 by omega]

@[simp] theorem zero_iWord : (iWord op rd imm).extractLsb' 11 5 = 0#5 := by
  ext k hk
  simp [getLsbD_iWord, show 11 + k < 16 by omega, show ¬ 11 + k < 8 by omega,
    show ¬ 11 + k < 11 by omega]

end iWord

end Sys2Proof
end

