-- ==== Sys2Proof/Laws/State.lean ====
section
/-! SUPPORT. One lemma per field per update of the state, so that no proof unfolds a record update. -/

namespace Sys2Proof.Machine

/-! ### Registers -/

@[simp] theorem State.getX_setX_self (s : State) (r : Reg) (v : Word) : (s.setX r v).getX r = v := by
  simp [State.getX, State.setX]

theorem State.getX_setX (s : State) (r q : Reg) (v : Word) :
    (s.setX r v).getX q = if r = q then v else s.getX q := by
  simp only [State.getX, State.setX, Fin.getElem_fin, Vector.getElem_set, Fin.ext_iff]

@[simp] theorem State.getX_setX_ne (s : State) {r q : Reg} (h : r ≠ q) (v : Word) :
    (s.setX r v).getX q = s.getX q := by simp [State.getX_setX, h]

@[simp] theorem State.setX_cfg (s : State) (r : Reg) (v : Word) : (s.setX r v).cfg = s.cfg := rfl
@[simp] theorem State.setX_status (s : State) (r : Reg) (v : Word) : (s.setX r v).status = s.status := rfl
@[simp] theorem State.setX_ferr (s : State) (r : Reg) (v : Word) : (s.setX r v).ferr = s.ferr := rfl
@[simp] theorem State.setX_dir (s : State) (r : Reg) (v : Word) : (s.setX r v).dir = s.dir := rfl
@[simp] theorem State.setX_crc (s : State) (r : Reg) (v : Word) : (s.setX r v).crc = s.crc := rfl
@[simp] theorem State.setX_lrc (s : State) (r : Reg) (v : Word) : (s.setX r v).lrc = s.lrc := rfl
@[simp] theorem State.setX_buf (s : State) (r : Reg) (v : Word) : (s.setX r v).buf = s.buf := rfl
@[simp] theorem State.setX_w (s : State) (r : Reg) (v : Word) : (s.setX r v).w = s.w := rfl
@[simp] theorem State.setX_oct (s : State) (r : Reg) (v : Word) : (s.setX r v).oct = s.oct := rfl
@[simp] theorem State.setX_pending (s : State) (r : Reg) (v : Word) : (s.setX r v).pending = s.pending := rfl
@[simp] theorem State.setX_responses (s : State) (r : Reg) (v : Word) :
    (s.setX r v).responses = s.responses := rfl

/-! ### How a command ends -/

@[simp] theorem State.respond_cfg (s : State) (e : Status) (d : Word) : (s.respond e d).cfg = s.cfg := rfl
@[simp] theorem State.respond_x (s : State) (e : Status) (d : Word) : (s.respond e d).x = s.x := rfl
@[simp] theorem State.respond_getX (s : State) (e : Status) (d : Word) (r : Reg) :
    (s.respond e d).getX r = s.getX r := rfl
@[simp] theorem State.respond_num (s : State) (e : Status) (d : Word) (r : Reg) :
    (s.respond e d).num r = s.num r := rfl
@[simp] theorem State.respond_status (s : State) (e : Status) (d : Word) :
    (s.respond e d).status = e.code := rfl
@[simp] theorem State.respond_ferr (s : State) (e : Status) (d : Word) :
    (s.respond e d).ferr = ferrAfter s.ferr e := rfl
@[simp] theorem State.respond_dir (s : State) (e : Status) (d : Word) : (s.respond e d).dir = s.dir := rfl
@[simp] theorem State.respond_crc (s : State) (e : Status) (d : Word) : (s.respond e d).crc = s.crc := rfl
@[simp] theorem State.respond_lrc (s : State) (e : Status) (d : Word) : (s.respond e d).lrc = s.lrc := rfl
@[simp] theorem State.respond_buf (s : State) (e : Status) (d : Word) : (s.respond e d).buf = s.buf := rfl
@[simp] theorem State.respond_w (s : State) (e : Status) (d : Word) : (s.respond e d).w = s.w := rfl
@[simp] theorem State.respond_oct (s : State) (e : Status) (d : Word) : (s.respond e d).oct = s.oct := rfl
@[simp] theorem State.respond_pending (s : State) (e : Status) (d : Word) :
    (s.respond e d).pending = s.pending := rfl
@[simp] theorem State.respond_responses (s : State) (e : Status) (d : Word) :
    (s.respond e d).responses = s.responses ++ [{ status := e.code, data := d }] := rfl

/-! ### Issuing a command -/

@[simp] theorem State.issued_cfg (s : State) : s.issued.cfg = s.cfg := rfl
@[simp] theorem State.issued_x (s : State) : s.issued.x = s.x := rfl
@[simp] theorem State.issued_status (s : State) : s.issued.status = s.status := rfl
@[simp] theorem State.issued_ferr (s : State) : s.issued.ferr = s.ferr := rfl
@[simp] theorem State.issued_dir (s : State) : s.issued.dir = s.dir := rfl
@[simp] theorem State.issued_crc (s : State) : s.issued.crc = s.crc := rfl
@[simp] theorem State.issued_lrc (s : State) : s.issued.lrc = s.lrc := rfl
@[simp] theorem State.issued_buf (s : State) : s.issued.buf = s.buf := rfl
@[simp] theorem State.issued_w (s : State) : s.issued.w = s.w := rfl
@[simp] theorem State.issued_oct (s : State) : s.issued.oct = s.oct := rfl
@[simp] theorem State.issued_pending (s : State) : s.issued.pending = s.pending.tail := rfl
@[simp] theorem State.issued_responses (s : State) : s.issued.responses = s.responses := rfl

/-! ### The status registers -/

/-- FERR takes the status of a command where it was 0 and keeps its value otherwise: with Ok, whose code is 0, that is no
change (R25). -/
theorem ferrAfter_eq (f : Byte) (e : Status) : ferrAfter f e = if f = 0 then e.code else f := by
  by_cases hf : f = 0 <;> cases e <;> simp [ferrAfter, Status.code, hf]

theorem Status.code_eq_zero (e : Status) : e.code = 0 ↔ e = .ok := by cases e <;> simp [Status.code]

theorem Status.code_le (e : Status) : e.code.toNat ≤ 5 := by cases e <;> simp [Status.code]

end Sys2Proof.Machine
end

