-- ==== Sys2Proof/Laws/Operands.lean ====
section
/-! SUPPORT. What each operand form can do, said once: it fails with the status of its check, or passes the operand on.
Proofs about commands cite these and unfold no form. -/

namespace Sys2Proof.Machine

theorem withIndex_cases (size : Nat) (rs1 : Reg) (s : State) (k : Nat → Outcome) :
    (size ≤ s.num rs1 ∧ withIndex size rs1 s k = raise .outOfRange s) ∨
    (s.num rs1 < size ∧ withIndex size rs1 s k = k (s.num rs1)) := by
  unfold withIndex
  split
  · exact .inl ⟨‹_›, rfl⟩
  · exact .inr ⟨by omega, rfl⟩

theorem withSpan_cases (rs1 rs2 : Reg) (p : Nat → Bool) (s : State) (k : Nat → Nat → Outcome) :
    (s.cfg.nw < s.num rs1 + s.num rs2 ∧ withSpan rs1 rs2 p s k = raise .outOfRange s) ∨
    (s.num rs1 + s.num rs2 ≤ s.cfg.nw ∧ p (s.num rs2) = true ∧
      withSpan rs1 rs2 p s k = raise .bufferTooSmall s) ∨
    (s.num rs1 + s.num rs2 ≤ s.cfg.nw ∧ p (s.num rs2) = false ∧
      withSpan rs1 rs2 p s k = k (s.num rs1) (s.num rs2)) := by
  unfold withSpan
  split
  · exact .inl ⟨‹_›, rfl⟩
  · cases hp : p (s.num rs2)
    · exact .inr (.inr ⟨by omega, rfl, by simp⟩)
    · exact .inr (.inl ⟨by omega, rfl, by simp⟩)

theorem withSpanLen_cases (rv rs1 rs2 : Reg) (s : State) (k : Nat → Nat → Nat → Outcome) :
    ((s.cfg.nw < s.num rs1 + s.num rs2 ∨ s.cfg.no < s.num rv) ∧
      withSpanLen rv rs1 rs2 s k = raise .outOfRange s) ∨
    (s.num rs1 + s.num rs2 ≤ s.cfg.nw ∧ s.num rv ≤ s.cfg.no ∧ s.num rs2 < ceilDiv (s.num rv) 2 ∧
      withSpanLen rv rs1 rs2 s k = raise .bufferTooSmall s) ∨
    (s.num rs1 + s.num rs2 ≤ s.cfg.nw ∧ s.num rv ≤ s.cfg.no ∧ ceilDiv (s.num rv) 2 ≤ s.num rs2 ∧
      withSpanLen rv rs1 rs2 s k = k (s.num rs1) (s.num rs2) (s.num rv)) := by
  unfold withSpanLen
  split
  · exact .inl ⟨.inl ‹_›, rfl⟩
  · split
    · exact .inl ⟨.inr ‹_›, rfl⟩
    · split
      · exact .inr (.inl ⟨by omega, by omega, ‹_›, rfl⟩)
      · exact .inr (.inr ⟨by omega, by omega, by omega, rfl⟩)

theorem withBufRange_cases (rs1 rs2 : Reg) (s : State) (k : Nat → Nat → Outcome) :
    (bufCap < s.num rs1 + s.num rs2 ∧ withBufRange rs1 rs2 s k = raise .outOfRange s) ∨
    (s.num rs1 + s.num rs2 ≤ bufCap ∧ withBufRange rs1 rs2 s k = k (s.num rs1) (s.num rs2)) := by
  unfold withBufRange
  split
  · exact .inl ⟨‹_›, rfl⟩
  · exact .inr ⟨by omega, rfl⟩

theorem getField_cases (rd : Reg) (f : Option Nat) (s : State) :
    (f = none ∧ getField rd f s = raise .fieldAbsent s) ∨
    (∃ v, f = some v ∧ getField rd f s = finishReg rd (BitVec.ofNat 32 v) s) := by
  cases f with
  | none => exact .inl ⟨rfl, rfl⟩
  | some v => exact .inr ⟨v, rfl, rfl⟩

theorem setField_cases (rs1 : Reg) (present : Bool) (max : Nat) (s : State) (upd : Nat → State) :
    (present = false ∧ setField rs1 present max s upd = raise .fieldAbsent s) ∨
    (present = true ∧ max < s.num rs1 ∧ setField rs1 present max s upd = raise .invalidArgument s) ∨
    (present = true ∧ s.num rs1 ≤ max ∧ setField rs1 present max s upd = finish (upd (s.num rs1))) := by
  unfold setField
  cases present with
  | false => exact .inl ⟨rfl, rfl⟩
  | true =>
    right
    by_cases h : s.num rs1 > max
    · exact .inl ⟨rfl, h, by simp [h]⟩
    · exact .inr ⟨rfl, by omega, by simp [h]⟩

theorem withCrcPosition_cases (s : State) (k : Outcome) :
    (s.rtuLength < 2 ∧ withCrcPosition s k = raise .fieldAbsent s) ∨
    (2 ≤ s.rtuLength ∧ withCrcPosition s k = k) := by
  unfold withCrcPosition
  split
  · exact .inl ⟨‹_›, rfl⟩
  · exact .inr ⟨by omega, rfl⟩

theorem withLrc_cases (s : State) (k : Outcome) :
    (s.cfg.hasLrc = false ∧ withLrc s k = raise .reservedEncoding s) ∨
    (s.cfg.hasLrc = true ∧ withLrc s k = k) := by
  unfold withLrc
  cases s.cfg.hasLrc <;> simp

/-! ### The same as rewrites -/

theorem withIndex_of_lt {size : Nat} {rs1 : Reg} {s : State} {k : Nat → Outcome} (h : s.num rs1 < size) :
    withIndex size rs1 s k = k (s.num rs1) := if_neg (Nat.not_le.2 h)

theorem withIndex_of_le {size : Nat} {rs1 : Reg} {s : State} {k : Nat → Outcome} (h : size ≤ s.num rs1) :
    withIndex size rs1 s k = raise .outOfRange s := if_pos h

theorem withSpan_ok {rs1 rs2 : Reg} {p : Nat → Bool} {s : State} {k : Nat → Nat → Outcome}
    (h : s.num rs1 + s.num rs2 ≤ s.cfg.nw) (hp : p (s.num rs2) = false) :
    withSpan rs1 rs2 p s k = k (s.num rs1) (s.num rs2) := by
  rw [withSpan, if_neg (by omega), if_neg (by simp [hp])]

theorem withSpanLen_ok {rv rs1 rs2 : Reg} {s : State} {k : Nat → Nat → Nat → Outcome}
    (h : s.num rs1 + s.num rs2 ≤ s.cfg.nw) (hn : s.num rv ≤ s.cfg.no)
    (hl : ceilDiv (s.num rv) 2 ≤ s.num rs2) :
    withSpanLen rv rs1 rs2 s k = k (s.num rs1) (s.num rs2) (s.num rv) := by
  rw [withSpanLen, if_neg (by omega), if_neg (by omega), if_neg (by omega)]

theorem withBufRange_ok {rs1 rs2 : Reg} {s : State} {k : Nat → Nat → Outcome}
    (h : s.num rs1 + s.num rs2 ≤ bufCap) :
    withBufRange rs1 rs2 s k = k (s.num rs1) (s.num rs2) := if_neg (Nat.not_lt.2 h)

theorem setField_ok {rs1 : Reg} {max : Nat} {s : State} {upd : Nat → State} (h : s.num rs1 ≤ max) :
    setField rs1 true max s upd = finish (upd (s.num rs1)) := by
  rw [setField, if_neg (by simp), if_neg (by omega)]

theorem setField_tooBig {rs1 : Reg} {max : Nat} {s : State} {upd : Nat → State} (h : ¬ s.num rs1 ≤ max) :
    setField rs1 true max s upd = raise .invalidArgument s := by
  rw [setField, if_neg (by simp), if_pos (by omega)]

theorem withCrcPosition_ok {s : State} {k : Outcome} (h : 2 ≤ s.rtuLength) : withCrcPosition s k = k :=
  if_neg (Nat.not_lt.2 h)

end Sys2Proof.Machine
end

