-- ==== Sys2Proof/Laws/Exec.lean ====
section
/-! SUPPORT. What a command can do, said once: it fails with a status of its row of R251, or it ends with Ok after an
effect that leaves the registers, the status registers and the host's side alone, with or without a destination. -/

namespace Sys2Proof.Machine

/-- The effect of a command before its end: everything but DIR, CRC, LRC and the spaces is as before. -/
structure Effect (s s' : State) : Prop where
  cfg : s'.cfg = s.cfg
  x : s'.x = s.x
  status : s'.status = s.status
  ferr : s'.ferr = s.ferr
  pending : s'.pending = s.pending
  responses : s'.responses = s.responses

/-- The three ends of a command that is neither CLRF nor RESET. -/
inductive Ends (i : Instr) (s : State) : Outcome → Prop where
  | failed (e : Status) (ne : e ≠ .ok) (mem : e ∈ failureStatuses s.cfg i) : Ends i s (raise e s)
  | done (s' : State) (eff : Effect s s') (no : dest i = none) : Ends i s (finish s')
  | doneReg (rd : Reg) (v : Word) (s' : State) (eff : Effect s s') (some : dest i = some rd) :
      Ends i s (finishReg rd v s')

theorem Effect.refl (s : State) : Effect s s := ⟨rfl, rfl, rfl, rfl, rfl, rfl⟩

theorem ends_withIndex {i : Instr} {s : State} {size : Nat} {rs1 : Reg} {k : Nat → Outcome}
    (hm : Status.outOfRange ∈ failureStatuses s.cfg i) (hk : Ends i s (k (s.num rs1))) :
    Ends i s (withIndex size rs1 s k) := by
  rcases withIndex_cases size rs1 s k with ⟨-, h⟩ | ⟨-, h⟩ <;> rw [h]
  · exact .failed _ (by decide) hm
  · exact hk

theorem ends_withSpan {i : Instr} {s : State} {rs1 rs2 : Reg} {p : Nat → Bool}
    {k : Nat → Nat → Outcome} (hm : failureStatuses s.cfg i = [.outOfRange, .bufferTooSmall])
    (hk : Ends i s (k (s.num rs1) (s.num rs2))) : Ends i s (withSpan rs1 rs2 p s k) := by
  rcases withSpan_cases rs1 rs2 p s k with ⟨-, h⟩ | ⟨-, -, h⟩ | ⟨-, -, h⟩ <;> rw [h]
  · exact .failed _ (by decide) (by simp [hm])
  · exact .failed _ (by decide) (by simp [hm])
  · exact hk

theorem ends_withSpanLen {i : Instr} {s : State} {rv rs1 rs2 : Reg} {k : Nat → Nat → Nat → Outcome}
    (hm : failureStatuses s.cfg i = [.outOfRange, .bufferTooSmall])
    (hk : Ends i s (k (s.num rs1) (s.num rs2) (s.num rv))) : Ends i s (withSpanLen rv rs1 rs2 s k) := by
  rcases withSpanLen_cases rv rs1 rs2 s k with ⟨-, h⟩ | ⟨-, -, -, h⟩ | ⟨-, -, -, h⟩ <;> rw [h]
  · exact .failed _ (by decide) (by simp [hm])
  · exact .failed _ (by decide) (by simp [hm])
  · exact hk

theorem ends_withBufRange {i : Instr} {s : State} {rs1 rs2 : Reg} {k : Nat → Nat → Outcome}
    (hm : Status.outOfRange ∈ failureStatuses s.cfg i) (hk : Ends i s (k (s.num rs1) (s.num rs2))) :
    Ends i s (withBufRange rs1 rs2 s k) := by
  rcases withBufRange_cases rs1 rs2 s k with ⟨-, h⟩ | ⟨-, h⟩ <;> rw [h]
  · exact .failed _ (by decide) hm
  · exact hk

theorem ends_getField {i : Instr} {s : State} {rd : Reg} {f : Option Nat} (hd : dest i = some rd)
    (hm : f = none → Status.fieldAbsent ∈ failureStatuses s.cfg i) : Ends i s (getField rd f s) := by
  rcases getField_cases rd f s with ⟨hf, h⟩ | ⟨v, -, h⟩ <;> rw [h]
  · exact .failed _ (by decide) (hm hf)
  · exact .doneReg _ _ _ (.refl s) hd

theorem ends_setField {i : Instr} {s : State} {rs1 : Reg} {present : Bool} {max : Nat}
    {upd : Nat → State} (hd : dest i = none) (hp : present = false → Status.fieldAbsent ∈ failureStatuses s.cfg i)
    (hm : Status.invalidArgument ∈ failureStatuses s.cfg i) (hu : Effect s (upd (s.num rs1))) :
    Ends i s (setField rs1 present max s upd) := by
  rcases setField_cases rs1 present max s upd with ⟨h0, h⟩ | ⟨-, -, h⟩ | ⟨-, -, h⟩ <;> rw [h]
  · exact .failed _ (by decide) (hp h0)
  · exact .failed _ (by decide) hm
  · exact .done _ hu hd

theorem ends_withCrcPosition {i : Instr} {s : State} {k : Outcome}
    (hm : Status.fieldAbsent ∈ failureStatuses s.cfg i) (hk : Ends i s k) :
    Ends i s (withCrcPosition s k) := by
  rcases withCrcPosition_cases s k with ⟨-, h⟩ | ⟨-, h⟩ <;> rw [h]
  · exact .failed _ (by decide) hm
  · exact hk

theorem ends_withLrc {i : Instr} {s : State} {k : Outcome} (hl : i.isLrc = true)
    (hk : s.cfg.hasLrc = true → Ends i s k) : Ends i s (withLrc s k) := by
  rcases withLrc_cases s k with ⟨h0, h⟩ | ⟨h0, h⟩ <;> rw [h]
  · exact .failed _ (by decide) (by simp [failureStatuses, hl, h0])
  · exact hk h0

/-- The ends of every command but CLRF and RESET. -/
theorem exec_ends (i : Instr) (s : State) (hc : i ≠ .clrf) (hr : i ≠ .reset) : Ends i s (exec i s) := by
  have refl : Effect s s := .refl s
  cases i
  case clrf => exact absurd rfl hc
  case reset => exact absurd rfl hr
  case nop => exact .done s refl rfl
  case ldi rd imm => exact .doneReg rd _ s refl rfl
  case ldih rd imm => exact .doneReg rd _ s refl rfl
  case mov rd rs1 => exact .doneReg rd _ s refl rfl
  case rderr rd => exact .doneReg rd _ s refl rfl
  case ldb rd rs1 | ldw rd rs1 | ldo rd rs1 =>
    simp only [exec, execLdb, execLdw, execLdo]
    refine ends_withIndex ?_ ?_
    · simp [failureStatuses, Instr.isLrc]
    · exact .doneReg rd _ s refl rfl
  case stb rs1 rs2 | stw rs1 rs2 | sto rs1 rs2 =>
    simp only [exec, execStb, execStw, execSto]
    refine ends_withIndex ?_ ?_
    · simp [failureStatuses, Instr.isLrc]
    · exact .done _ ⟨rfl, rfl, rfl, rfl, rfl, rfl⟩ rfl
  case unpkU8 rd rs1 rs2 ord =>
    simp only [exec, execUnpkU8]
    refine ends_withSpan ?_ ?_
    · rfl
    · cases ord <;> exact .doneReg rd _ s refl rfl
  case unpkU16 rd rs1 rs2 | unpkU32 rd rs1 rs2 | unpkF32 rd rs1 rs2 =>
    simp only [exec, execUnpkU16, execUnpkU32, execUnpkF32]
    refine ends_withSpan ?_ ?_
    · rfl
    · exact .doneReg rd _ s refl rfl
  case unpkStr rd rs1 rs2 | unpkOct rd rs1 rs2 =>
    simp only [exec, execUnpkStr, execUnpkOct]
    refine ends_withSpan ?_ ?_
    · rfl
    · exact .doneReg rd _ _ ⟨rfl, rfl, rfl, rfl, rfl, rfl⟩ rfl
  case packU8 rv rs1 rs2 ord =>
    simp only [exec, execPackU8]
    refine ends_withSpan ?_ ?_
    · rfl
    · cases ord <;> exact .done _ ⟨rfl, rfl, rfl, rfl, rfl, rfl⟩ rfl
  case packU16 rv rs1 rs2 | packU32 rv rs1 rs2 | packF32 rv rs1 rs2 =>
    simp only [exec, execPackU16, execPackU32, execPackF32]
    refine ends_withSpan ?_ ?_
    · rfl
    · exact .done _ ⟨rfl, rfl, rfl, rfl, rfl, rfl⟩ rfl
  case packStr rv rs1 rs2 | packOct rv rs1 rs2 =>
    simp only [exec, execPackStr, execPackOct]
    refine ends_withSpanLen ?_ ?_
    · rfl
    · exact .done _ ⟨rfl, rfl, rfl, rfl, rfl, rfl⟩ rfl
  case getTid | getPid | getMlen | getSid | getFc | getIsexc | getIsreq | getHassa | getHasrv | getRtulen |
      getPdulen | getTcplen =>
    simp only [exec, execGetTid, execGetPid, execGetMlen, execGetSid, execGetFc, execGetIsexc,
      execGetIsreq, execGetHassa, execGetHasrv, execGetRtulen, execGetPdulen, execGetTcplen]
    refine ends_getField ?_ ?_
    · rfl
    · intro h
      cases h
  case getSa | getRc | getBc | getEc | getVoff =>
    simp only [exec, execGetSa, execGetRc, execGetBc, execGetEc, execGetVoff]
    refine ends_getField ?_ ?_
    · rfl
    · intro _
      simp [failureStatuses, Instr.isLrc]
  case setTid | setPid | setMlen | setSid | setFc | setIsexc | setIsreq =>
    simp only [exec, execSetTid, execSetPid, execSetMlen, execSetSid, execSetFc, execSetIsexc,
      execSetIsreq]
    refine ends_setField ?_ ?_ ?_ ?_
    · rfl
    · intro h
      cases h
    · simp [failureStatuses, Instr.isLrc]
    · exact ⟨rfl, rfl, rfl, rfl, rfl, rfl⟩
  case setSa | setRc | setBc | setEc =>
    simp only [exec, execSetSa, execSetRc, execSetBc, execSetEc]
    refine ends_setField ?_ ?_ ?_ ?_
    · rfl
    · intro _
      simp [failureStatuses, Instr.isLrc]
    · simp [failureStatuses, Instr.isLrc]
    · exact ⟨rfl, rfl, rfl, rfl, rfl, rfl⟩
  case getv rd =>
    simp only [exec, execGetv]
    split
    · exact .failed _ (by decide) (by simp [failureStatuses, Instr.isLrc])
    · exact .doneReg rd _ _ ⟨rfl, rfl, rfl, rfl, rfl, rfl⟩ rfl
  case putv rs1 =>
    simp only [exec, execPutv]
    split
    · exact .failed _ (by decide) (by simp [failureStatuses, Instr.isLrc])
    · split
      · exact .failed _ (by decide) (by simp [failureStatuses, Instr.isLrc])
      · exact .done _ ⟨rfl, rfl, rfl, rfl, rfl, rfl⟩ rfl
  case crcInit => exact .done _ ⟨rfl, rfl, rfl, rfl, rfl, rfl⟩ rfl
  case crcUpd rs1 => exact .done _ ⟨rfl, rfl, rfl, rfl, rfl, rfl⟩ rfl
  case crcRd rd => exact .doneReg rd _ s refl rfl
  case crcBuf rd rs1 rs2 =>
    simp only [exec, execCrcBuf]
    refine ends_withBufRange ?_ ?_
    · simp [failureStatuses, Instr.isLrc]
    · exact .doneReg rd _ _ ⟨rfl, rfl, rfl, rfl, rfl, rfl⟩ rfl
  case crcCalc rd =>
    simp only [exec, execCrcCalc]
    refine ends_withCrcPosition ?_ ?_
    · simp [failureStatuses, Instr.isLrc]
    · exact .doneReg rd _ _ ⟨rfl, rfl, rfl, rfl, rfl, rfl⟩ rfl
  case crcStored rd =>
    simp only [exec, execCrcStored]
    refine ends_withCrcPosition ?_ ?_
    · simp [failureStatuses, Instr.isLrc]
    · exact .doneReg rd _ s refl rfl
  case crcAppend =>
    simp only [exec, execCrcAppend]
    refine ends_withCrcPosition ?_ ?_
    · simp [failureStatuses, Instr.isLrc]
    · exact .done _ ⟨rfl, rfl, rfl, rfl, rfl, rfl⟩ rfl
  case lrcInit => exact ends_withLrc rfl fun _ => .done _ ⟨rfl, rfl, rfl, rfl, rfl, rfl⟩ rfl
  case lrcUpd rs1 => exact ends_withLrc rfl fun _ => .done _ ⟨rfl, rfl, rfl, rfl, rfl, rfl⟩ rfl
  case lrcRd rd => exact ends_withLrc rfl fun _ => .doneReg rd _ s refl rfl
  case lrcBuf rd rs1 rs2 =>
    simp only [exec, execLrcBuf]
    refine ends_withLrc rfl fun hl => ends_withBufRange ?_ ?_
    · simp [failureStatuses, Instr.isLrc, hl]
    · exact .doneReg rd _ _ ⟨rfl, rfl, rfl, rfl, rfl, rfl⟩ rfl
  case calcRtulen rd rs1 rs2 req exc =>
    simp only [exec, execCalcRtulen]
    split
    · exact .failed _ (by decide) (by simp [failureStatuses, Instr.isLrc])
    · exact .doneReg rd _ s refl rfl
  case expRlen rd =>
    simp only [exec, execExpRlen]
    split
    · exact .doneReg rd _ s refl rfl
    · exact .failed _ (by decide) (by simp [failureStatuses, Instr.isLrc])
  case txtime rd rs1 rs2 =>
    simp only [exec, execTxtime]
    split
    · exact .failed _ (by decide) (by simp [failureStatuses, Instr.isLrc])
    · exact .doneReg rd _ s refl rfl
  case build =>
    simp only [exec, execBuild]
    split
    · exact .done _ ⟨rfl, rfl, rfl, rfl, rfl, rfl⟩ rfl
    · exact .failed _ (by decide) (by simp [failureStatuses, Instr.isLrc])
  case buildExc =>
    simp only [exec, execBuildExc]
    split
    · exact .done _ ⟨rfl, rfl, rfl, rfl, rfl, rfl⟩ rfl
    · exact .failed _ (by decide) (by simp [failureStatuses, Instr.isLrc])
  case valRtu rd =>
    simp only [exec, execValRtu]
    split
    · exact .doneReg rd _ s refl rfl
    · split
      · exact .doneReg rd _ s refl rfl
      · split
        · exact .doneReg rd _ _ ⟨rfl, rfl, rfl, rfl, rfl, rfl⟩ rfl
        · exact .doneReg rd _ _ ⟨rfl, rfl, rfl, rfl, rfl, rfl⟩ rfl
  case valTcp rd =>
    simp only [exec, execValTcp]
    split
    · exact .doneReg rd _ s refl rfl
    · split
      · exact .doneReg rd _ s refl rfl
      · exact .doneReg rd _ s refl rfl

end Sys2Proof.Machine
end

