-- ==== Sys2Proof/Laws/Memory.lean ====
section
/-! SUPPORT. Laws of the address spaces: a read after a write, and the canonical form every operation keeps. -/

namespace Sys2Proof.Machine

variable {n : Nat}

@[simp] theorem Memory.read_nil (a : Nat) : Memory.read ([] : Mem n) a = 0#n := rfl

/-- Reading below every listed address gives the unlisted value. -/
theorem Memory.read_of_lt {m : Mem n} {a : Nat} (h : ∀ c ∈ m, a < c.1) : Memory.read m a = 0#n := by
  induction m with
  | nil => rfl
  | cons c t ih =>
    obtain ⟨k, v⟩ := c
    have hk := h (k, v) (by simp)
    simp only [Memory.read]
    rw [if_neg (by simp at hk; omega)]
    exact ih fun c hc => h c (by simp [hc])

/-- A write lists no address but those listed before and its own. -/
theorem Memory.mem_write {m : Mem n} {a : Nat} {v : BitVec n} {c : Nat × BitVec n}
    (h : c ∈ Memory.write m a v) : c ∈ m ∨ (c = (a, v) ∧ v ≠ 0#n) := by
  induction m with
  | nil =>
    by_cases hv : v = 0#n <;> simp_all [Memory.write]
  | cons d t ih =>
    obtain ⟨k, u⟩ := d
    simp only [Memory.write] at h
    split at h
    · split at h
      · exact .inl h
      · rcases List.mem_cons.1 h with h | h
        · exact .inr ⟨h, ‹_›⟩
        · exact .inl h
    · split at h
      · split at h
        · exact .inl (by simp [h])
        · rcases List.mem_cons.1 h with h | h
          · exact .inr ⟨h, ‹_›⟩
          · exact .inl (by simp [h])
      · rcases List.mem_cons.1 h with h | h
        · exact .inl (by simp [h])
        · rcases ih h with h | h
          · exact .inl (by simp [h])
          · exact .inr h

/-- Reading back after a write: the value at its index, every other element as before. -/
theorem Memory.read_write {m : Mem n} (hm : m.Pairwise fun c d => c.1 < d.1) (a b : Nat)
    (v : BitVec n) : Memory.read (Memory.write m a v) b = if a = b then v else Memory.read m b := by
  induction m with
  | nil => by_cases hv : v = 0#n <;> by_cases hab : a = b <;> simp [Memory.write, Memory.read, hv, hab]
  | cons d t ih =>
    obtain ⟨k, u⟩ := d
    have ht := (List.pairwise_cons.1 hm).2
    have hk : ∀ c ∈ t, k < c.1 := fun c hc => (List.pairwise_cons.1 hm).1 c hc
    simp only [Memory.write]
    split
    · have hz : a = b → Memory.read ((k, u) :: t) b = 0#n := fun hab =>
        Memory.read_of_lt fun c hc => by
          rcases List.mem_cons.1 hc with rfl | hc
          · simp; omega
          · have := hk c hc; omega
      by_cases hv : v = 0#n
      · by_cases hab : a = b
        · simp [hv, hab, hz hab]
        · simp [hv, hab]
      · by_cases hab : a = b <;> simp [hv, Memory.read, hab]
    · split
      · rename_i hak
        subst hak
        by_cases hv : v = 0#n
        · by_cases hab : a = b
          · subst hab; simp [hv, Memory.read_of_lt hk]
          · simp [hv, Memory.read, hab]
        · by_cases hab : a = b <;> simp [hv, Memory.read, hab]
      · rename_i h1 h2
        by_cases hkb : k = b
        · have hab : a ≠ b := by omega
          simp [Memory.read, hkb, hab]
        · simp [Memory.read, hkb, ih ht]

/-- A write inside the space keeps the canonical form. -/
theorem Memory.wf_write {size : Nat} {m : Mem n} (h : Memory.wf size m) {a : Nat} (ha : a < size)
    (v : BitVec n) : Memory.wf size (Memory.write m a v) := by
  refine ⟨?_, fun c hc => ?_⟩
  · have hp := h.1
    clear h ha
    induction m with
    | nil => by_cases hv : v = 0#n <;> simp [Memory.write, hv]
    | cons d t ih =>
      obtain ⟨k, u⟩ := d
      obtain ⟨hk, ht⟩ := List.pairwise_cons.1 hp
      simp only [Memory.write]
      split
      · split
        · exact hp
        · refine List.pairwise_cons.2 ⟨fun c hc => ?_, hp⟩
          rcases List.mem_cons.1 hc with rfl | hc
          · assumption
          · have := hk c hc; simp at this ⊢; omega
      · split
        · split
          · exact ht
          · subst_vars; exact List.pairwise_cons.2 ⟨hk, ht⟩
        · refine List.pairwise_cons.2 ⟨fun c hc => ?_, ih ht⟩
          rcases Memory.mem_write hc with hc | ⟨rfl, -⟩
          · exact hk c hc
          · simp; omega
  · rcases Memory.mem_write hc with hc | ⟨rfl, hv⟩
    · exact h.2 c hc
    · exact ⟨ha, hv⟩

/-- The reset contents have the canonical form. -/
theorem Memory.wf_nil (size : Nat) : Memory.wf size ([] : Mem n) := by simp [Memory.wf]

/-- A range write inside the space keeps the canonical form. -/
theorem Memory.wf_writeRange {size : Nat} (l : List (BitVec n)) :
    ∀ {m : Mem n} {a : Nat}, Memory.wf size m → a + l.length ≤ size →
      Memory.wf size (Memory.writeRange m a l) := by
  induction l with
  | nil => intro m a h _; exact h
  | cons v l ih =>
    intro m a h ha
    simp at ha
    exact ih (Memory.wf_write h (by omega) v) (by omega)

/-- Reading back after a range write: the list's elements at its indices, every other element as before. -/
theorem Memory.read_writeRange {size : Nat} (l : List (BitVec n)) :
    ∀ {m : Mem n} {a : Nat}, Memory.wf size m → a + l.length ≤ size → ∀ b,
      Memory.read (Memory.writeRange m a l) b =
        if h : a ≤ b ∧ b - a < l.length then l[b - a] else Memory.read m b := by
  induction l with
  | nil => intro m a h _ b; simp [Memory.writeRange]
  | cons v l ih =>
    intro m a h ha b
    simp only [List.length_cons] at ha
    simp only [Memory.writeRange]
    rw [ih (Memory.wf_write h (by omega) v) (by omega) b, Memory.read_write h.1]
    rcases Nat.lt_trichotomy b a with hb | hb | hb
    · rw [dif_neg (by omega), if_neg (by omega), dif_neg (by omega)]
    · subst hb
      rw [dif_neg (by omega), if_pos rfl, dif_pos (by simp)]
      simp
    · rw [if_neg (by omega)]
      obtain ⟨d, rfl⟩ : ∃ d, b = a + 1 + d := ⟨b - a - 1, by omega⟩
      have e1 : a + 1 + d - (a + 1) = d := by omega
      have e2 : a + 1 + d - a = d + 1 := by omega
      by_cases hd : d < l.length
      · rw [dif_pos (by omega), dif_pos (by simp; omega)]
        simp [e1, e2]
      · rw [dif_neg (by omega), dif_neg (by simp; omega)]

/-- An element outside the space reads as the unlisted value. -/
theorem Memory.read_of_size_le {size : Nat} {m : Mem n} (h : Memory.wf size m) {a : Nat}
    (ha : size ≤ a) : Memory.read m a = 0#n := by
  have h2 := h.2
  clear h
  induction m with
  | nil => rfl
  | cons c t ih =>
    obtain ⟨k, v⟩ := c
    have := (h2 (k, v) (by simp)).1
    simp only [Memory.read]
    rw [if_neg (by simp at this; omega)]
    exact ih fun c hc => h2 c (by simp [hc])

@[simp] theorem Memory.length_readRange (m : Mem n) (a k : Nat) :
    (Memory.readRange m a k).length = k := by simp [Memory.readRange]

/-- Two spaces in canonical form that read the same everywhere are the same data. -/
theorem Memory.eq_of_read_eq {size : Nat} : ∀ {m m' : Mem n}, Memory.wf size m → Memory.wf size m' →
    (∀ a, Memory.read m a = Memory.read m' a) → m = m' := by
  intro m
  induction m with
  | nil =>
    intro m' _ h' hr
    cases m' with
    | nil => rfl
    | cons c t =>
      have := hr c.1
      simp [Memory.read] at this
      exact absurd this.symm (h'.2 c (by simp)).2
  | cons c t ih =>
    intro m' h h' hr
    cases m' with
    | nil =>
      have := hr c.1
      simp [Memory.read] at this
      exact absurd this (h.2 c (by simp)).2
    | cons d t' =>
      obtain ⟨k, v⟩ := c
      obtain ⟨k', v'⟩ := d
      obtain ⟨hk, ht⟩ := List.pairwise_cons.1 h.1
      obtain ⟨hk', ht'⟩ := List.pairwise_cons.1 h'.1
      have hv := (h.2 (k, v) (by simp)).2
      have hv' := (h'.2 (k', v') (by simp)).2
      have hkk : k = k' := by
        rcases Nat.lt_trichotomy k k' with hlt | heq | hlt
        · have := hr k
          rw [Memory.read_of_lt (m := (k', v') :: t') fun c hc => by
            rcases List.mem_cons.1 hc with rfl | hc
            · exact hlt
            · have := hk' c hc; simp at this; omega] at this
          simp [Memory.read] at this
          exact absurd this hv
        · exact heq
        · have := hr k'
          rw [Memory.read_of_lt (m := (k, v) :: t) fun c hc => by
            rcases List.mem_cons.1 hc with rfl | hc
            · exact hlt
            · have := hk c hc; simp at this; omega] at this
          simp [Memory.read] at this
          exact absurd this.symm hv'
      subst hkk
      have hvv : v = v' := by simpa [Memory.read] using hr k
      subst hvv
      have : t = t' := ih ⟨ht, fun c hc => h.2 c (by simp [hc])⟩
        ⟨ht', fun c hc => h'.2 c (by simp [hc])⟩ fun a => by
          by_cases ha : k = a
          · subst ha; rw [Memory.read_of_lt hk, Memory.read_of_lt hk']
          · simpa [Memory.read, ha] using hr a
      rw [this]

end Sys2Proof.Machine
end

