-- ==== Sys2Proof/Laws/Ends.lean ====
section
/-! SUPPORT. The ends of a command in the terms the statements use: a `raise` fails with its status, a `finish` completes,
and the numbers the state's elements read as. -/

namespace Sys2Proof.Machine

/-! ### Failing -/

theorem failsWith_raise (e : Status) (s : State) : FailsWith e s (raise e s) := by
  simp [FailsWith, raise, State.respond, ferrAfter_eq]

/-! ### Completing -/

theorem KeepsBut.refl (s : State) (f : Footprint) : KeepsBut s s f :=
  ⟨rfl, rfl, fun _ _ => rfl, fun _ => rfl, fun _ => rfl, fun _ => rfl, fun _ _ => rfl, fun _ _ => rfl,
    fun _ _ => rfl⟩

/-- A command without a destination completes: its effect `s'` is inside the footprint and leaves FERR and the responses
alone. -/
theorem completes_finish {s s' : State} {f : Footprint} {P : State → Prop} (h : KeepsBut s s' f)
    (hr : f.reg = none) (hf : s'.ferr = s.ferr) (hq : s'.responses = s.responses)
    (hP : P (s'.respond .ok 0)) : Completes s (finish s') f P :=
  ⟨s'.respond .ok 0, rfl, ⟨rfl, by simp [ferrAfter_eq, hf], by simp [hq, hr]⟩,
    ⟨h.cfg, h.pending, h.regs, h.dir, h.crc, h.lrc, h.buf, h.w, h.oct⟩, hP⟩

/-- A command with a destination completes. -/
theorem completes_finishReg {s s' : State} {f : Footprint} {P : State → Prop} {rd : Reg} {v : Word}
    (h : KeepsBut s s' f) (hr : f.reg = some rd) (hf : s'.ferr = s.ferr)
    (hq : s'.responses = s.responses) (hP : P ((s'.setX rd v).respond .ok v)) :
    Completes s (finishReg rd v s') f P := by
  refine ⟨_, rfl, ⟨rfl, by simp [ferrAfter_eq, hf], by simp [hq, hr]⟩,
    ⟨h.cfg, h.pending, fun r hne => ?_, h.dir, h.crc, h.lrc, h.buf, h.w, h.oct⟩, hP⟩
  have : rd ≠ r := fun e => hne (by rw [hr, e])
  simp [this, h.regs r hne]

/-- A command that only writes its destination gives that register its value. -/
theorem givesReg_finishReg (rd : Reg) (v : Word) (s : State) :
    GivesReg rd v.toNat s (finishReg rd v s) :=
  completes_finishReg (.refl s _) rfl rfl rfl (by simp)

theorem givesReg_finishReg_of {rd : Reg} {v : Word} {s : State} {n : Nat} (h : v.toNat = n) :
    GivesReg rd n s (finishReg rd v s) := h ▸ givesReg_finishReg rd v s

/-- A getter whose value fits 32 bits answers it (R168). -/
theorem givesField_getField {rd : Reg} {f g : Option Nat} {s : State} (h : f = g)
    (hb : ∀ v, g = some v → v < 2 ^ 32) : GivesField rd g s (getField rd f s) := by
  subst h
  cases f with
  | none => exact failsWith_raise _ s
  | some v => exact givesReg_finishReg_of (by simpa using Nat.mod_eq_of_lt (hb v rfl))

/-! ### Numbers -/

theorem num_eq (s : State) (r : Reg) : s.num r = (s.getX r).toNat := rfl

theorem num_lt (s : State) (r : Reg) : s.num r < 2 ^ 32 := (s.getX r).isLt

@[simp] theorem num_setX_self (s : State) (r : Reg) (v : Word) : (s.setX r v).num r = v.toNat := by
  simp [State.num]

@[simp] theorem byte_respond (s : State) (e : Status) (d : Word) (a : Nat) :
    (s.respond e d).byte a = s.byte a := rfl
@[simp] theorem word_respond (s : State) (e : Status) (d : Word) (a : Nat) :
    (s.respond e d).word a = s.word a := rfl
@[simp] theorem octet_respond (s : State) (e : Status) (d : Word) (a : Nat) :
    (s.respond e d).octet a = s.octet a := rfl
@[simp] theorem byte_setX (s : State) (r : Reg) (v : Word) (a : Nat) : (s.setX r v).byte a = s.byte a := rfl
@[simp] theorem word_setX (s : State) (r : Reg) (v : Word) (a : Nat) : (s.setX r v).word a = s.word a := rfl
@[simp] theorem octet_setX (s : State) (r : Reg) (v : Word) (a : Nat) :
    (s.setX r v).octet a = s.octet a := rfl

theorem byte_lt (s : State) (a : Nat) : s.byte a < 256 := (Memory.read s.buf a).isLt
theorem word_lt (s : State) (a : Nat) : s.word a < 65536 := (Memory.read s.w a).isLt
theorem octet_lt (s : State) (a : Nat) : s.octet a < 256 := (Memory.read s.oct a).isLt

theorem hiByte_toNat (h : Half) : (hiByte h).toNat = h.toNat / 256 := by
  have := h.isLt
  simp only [hiByte, BitVec.extractLsb'_toNat, Nat.shiftRight_eq_div_pow]
  omega

theorem loByte_toNat (h : Half) : (loByte h).toNat = h.toNat % 256 := by simp [loByte]

theorem half_toNat (hi lo : Byte) : (half hi lo).toNat = 256 * hi.toNat + lo.toNat := by
  have := lo.isLt
  rw [half, BitVec.toNat_append, ← Nat.shiftLeft_add_eq_or_of_lt lo.isLt, Nat.shiftLeft_eq]
  omega

@[simp] theorem hiByte_half (hi lo : Byte) : hiByte (half hi lo) = hi := by
  apply BitVec.eq_of_toNat_eq
  rw [hiByte_toNat, half_toNat]
  have := lo.isLt
  omega

@[simp] theorem loByte_half (hi lo : Byte) : loByte (half hi lo) = lo := by
  apply BitVec.eq_of_toNat_eq
  rw [loByte_toNat, half_toNat]
  have := lo.isLt
  omega

@[simp] theorem half_hiByte_loByte (h : Half) : half (hiByte h) (loByte h) = h := by
  apply BitVec.eq_of_toNat_eq
  rw [half_toNat, hiByte_toNat, loByte_toNat]
  omega

@[simp] theorem zextByte_toNat (b : Byte) : (zextByte b).toNat = b.toNat := by
  have := b.isLt
  simp [zextByte]
  omega

@[simp] theorem zextHalf_toNat (h : Half) : (zextHalf h).toNat = h.toNat := by
  have := h.isLt
  simp [zextHalf]
  omega

theorem be16_toNat (s : State) (a : Nat) : (be16 s.buf a).toNat = 256 * s.byte a + s.byte (a + 1) :=
  half_toNat _ _

theorem le16_toNat (s : State) (a : Nat) : (le16 s.buf a).toNat = s.byte a + 256 * s.byte (a + 1) := by
  rw [le16, half_toNat, Nat.add_comm]; rfl

/-! ### The two-byte and two-word stores -/

section stores

variable {n size : Nat}

theorem wf_setBe16 {m : Mem 8} (h : Memory.wf size m) {a : Nat} (ha : a + 1 < size) (v : Half) :
    Memory.wf size (setBe16 m a v) := Memory.wf_write (Memory.wf_write h (by omega) _) ha _

theorem wf_setLe16 {m : Mem 8} (h : Memory.wf size m) {a : Nat} (ha : a + 1 < size) (v : Half) :
    Memory.wf size (setLe16 m a v) := Memory.wf_write (Memory.wf_write h (by omega) _) ha _

theorem wf_writePair {m : Mem 16} (h : Memory.wf size m) {a : Nat} (ha : a + 1 < size) (v : Word) :
    Memory.wf size (writePair m a v) := Memory.wf_write (Memory.wf_write h (by omega) _) ha _

theorem read_setBe16 {m : Mem 8} (h : Memory.wf size m) {a : Nat} (ha : a + 1 < size) (v : Half) (b : Nat) :
    Memory.read (setBe16 m a v) b =
      if a + 1 = b then loByte v else if a = b then hiByte v else Memory.read m b := by
  rw [setBe16, Memory.read_write (Memory.wf_write h (by omega) _).1, Memory.read_write h.1]

theorem read_setLe16 {m : Mem 8} (h : Memory.wf size m) {a : Nat} (ha : a + 1 < size) (v : Half) (b : Nat) :
    Memory.read (setLe16 m a v) b =
      if a + 1 = b then hiByte v else if a = b then loByte v else Memory.read m b := by
  rw [setLe16, Memory.read_write (Memory.wf_write h (by omega) _).1, Memory.read_write h.1]

theorem read_writePair {m : Mem 16} (h : Memory.wf size m) {a : Nat} (ha : a + 1 < size) (v : Word)
    (b : Nat) :
    Memory.read (writePair m a v) b =
      if a + 1 = b then v.extractLsb' 0 16
      else if a = b then v.extractLsb' 16 16 else Memory.read m b := by
  rw [writePair, Memory.read_write (Memory.wf_write h (by omega) _).1, Memory.read_write h.1]

end stores

end Sys2Proof.Machine
end

