-- ==== Sys2Proof/Laws/Layout.lean ====
section
/-! SUPPORT. The layout predicates of the model against the kinds of frame of spec/20_memory.md R59: for each kind, the
exception bit, the class and the direction, and from them every derived value. -/

namespace Sys2Proof.Machine

theorem fc7_eq (s : State) : s.fc7 = s.byte 7 % 128 := by
  simp [State.fc7, State.byte, State.bufAt]

theorem bit7_eq : ∀ b : Byte, b.getLsbD 7 = decide (128 ≤ b.toNat) := by decide

theorem exc_eq (s : State) : s.exc = decide (128 ≤ s.byte 7) := bit7_eq _

/-- What a kind of frame says of a direction and a function-code byte. -/
def KindSays (dir : Bool) (b7 : Nat) (k : FrameKind) : Prop :=
  match k with
  | .exception => 128 ≤ b7
  | .readRequest => b7 < 128 ∧ fcClass b7 = .br ∧ dir = true
  | .readResponse => b7 < 128 ∧ fcClass b7 = .br ∧ dir = false
  | .singleWrite => b7 < 128 ∧ fcClass b7 = .sw ∧ bitFn b7 = false
  | .writeRequest => b7 < 128 ∧ fcClass b7 = .mw ∧ dir = true
  | .writeResponse => b7 < 128 ∧ fcClass b7 = .mw ∧ dir = false
  | .other => b7 < 128 ∧ fcClass b7 = .ot

theorem kindOf_says (dir : Bool) (b7 : Nat) : KindSays dir b7 (kindOf dir b7) := by
  unfold kindOf
  split
  · assumption
  · have hb : b7 < 128 := by omega
    split
    · rename_i h
      simp only [List.mem_cons, List.not_mem_nil, or_false] at h
      cases dir <;> rcases h with rfl | rfl | rfl | rfl <;> simp [KindSays, fcClass]
    · split
      · rename_i h
        simp only [List.mem_cons, List.not_mem_nil, or_false] at h
        rcases h with rfl | rfl <;> simp [KindSays, fcClass, bitFn]
      · split
        · rename_i h
          simp only [List.mem_cons, List.not_mem_nil, or_false] at h
          cases dir <;> rcases h with rfl | rfl <;> simp [KindSays, fcClass]
        · rename_i h1 h2 h3
          simp only [List.mem_cons, List.not_mem_nil, or_false] at h1 h2 h3
          refine ⟨hb, ?_⟩
          unfold fcClass
          rw [if_neg (by omega), if_neg (by omega), if_neg (by omega)]

/-- The exception bit, the class and the direction of each kind of frame. -/
theorem kind_says (s : State) :
    match s.kind with
    | .exception => s.exc = true
    | .readRequest => s.exc = false ∧ s.cls = .br ∧ s.req = true
    | .readResponse => s.exc = false ∧ s.cls = .br ∧ s.req = false
    | .singleWrite => s.exc = false ∧ s.cls = .sw
    | .writeRequest => s.exc = false ∧ s.cls = .mw ∧ s.req = true
    | .writeResponse => s.exc = false ∧ s.cls = .mw ∧ s.req = false
    | .other => s.exc = false ∧ s.cls = .ot := by
  have h := kindOf_says s.dir (s.byte 7)
  have hr : s.req = (s.dir && !s.exc) := rfl
  have hc : s.cls = fcClass (s.byte 7 % 128) := by rw [State.cls, fc7_eq]
  rw [hc, hr, exc_eq]
  change match kindOf s.dir (s.byte 7) with | _ => _
  unfold State.kind
  generalize kindOf s.dir (s.byte 7) = k at h
  cases k <;> simp only [KindSays] at h ⊢
  · simpa using h
  all_goals
    obtain ⟨hb, h⟩ := h
    rw [Nat.mod_eq_of_lt hb]
    simp [hb, h]

/-- Outside an exception frame the function code is the whole byte. -/
theorem fc7_of_exc (s : State) (h : s.exc = false) : s.fc7 = s.byte 7 := by
  rw [exc_eq] at h
  rw [fc7_eq]
  have : s.byte 7 < 128 := by simpa using h
  omega

theorem bitFn_iff (fc : Nat) : bitFn fc = true ↔ BitFunction fc := by
  simp [bitFn, BitFunction, or_assoc]

/-! ### The derived values of each kind -/

theorem hasSa_eq (s : State) : s.hasSa = match s.kind with
    | .readRequest | .singleWrite | .writeRequest | .writeResponse => true
    | .exception | .readResponse | .other => false := by
  have h := kind_says s
  cases hk : s.kind <;> simp only [hk] at h <;> simp [State.hasSa, h]

theorem hasRv_eq (s : State) : s.hasRv = match s.kind with
    | .readResponse | .singleWrite | .writeRequest => true
    | .exception | .readRequest | .writeResponse | .other => false := by
  have h := kind_says s
  cases hk : s.kind <;> simp only [hk] at h <;> simp [State.hasRv, h]

theorem rcOff_eq (s : State) : s.rcOff = match s.kind with
    | .readRequest | .writeRequest | .writeResponse => some 10
    | .exception | .readResponse | .singleWrite | .other => none := by
  have h := kind_says s
  cases hk : s.kind <;> simp only [hk] at h <;> simp [State.rcOff, h]

theorem bcOff_eq (s : State) : s.bcOff = match s.kind with
    | .readResponse => some 8
    | .writeRequest => some 12
    | .exception | .readRequest | .singleWrite | .writeResponse | .other => none := by
  have h := kind_says s
  cases hk : s.kind <;> simp only [hk] at h <;> simp [State.bcOff, h]

theorem byteCount_eq (s : State) : s.byteCount = match s.kind with
    | .readRequest | .writeResponse => some 0
    | .singleWrite => some 2
    | .readResponse => some (s.byte 8)
    | .writeRequest => some (s.byte 12)
    | .exception | .other => none := by
  have h := kind_says s
  cases hk : s.kind <;> simp only [hk] at h <;> simp [State.byteCount, h] <;> rfl

theorem registerCount_eq (s : State) : s.registerCount = match s.kind with
    | .readRequest | .writeRequest | .writeResponse => some (256 * s.byte 10 + s.byte 11)
    | .singleWrite => some 1
    | .readResponse => some (if BitFunction (s.byte 7) then s.byte 8 * 8 else s.byte 8 / 2)
    | .exception | .other => none := by
  have h := kind_says s
  cases hk : s.kind <;> simp only [hk] at h <;> simp [State.registerCount, h, be16_toNat]
  rw [fc7_of_exc s h.1]
  by_cases hb : bitFn (s.byte 7) = true
  · rw [if_pos hb, if_pos (by simpa [BitFunction] using (bitFn_iff _).1 hb)]; rfl
  · rw [if_neg hb, if_neg (by simpa [BitFunction] using fun hc => hb ((bitFn_iff _).2 hc))]; rfl

theorem rtuLength_eq (s : State) : s.rtuLength = s.frameLength := by
  have h := kind_says s
  have hc : fcClass s.fc7 = s.cls := rfl
  rw [State.rtuLength, State.bcOrZero, byteCount_eq, State.frameLength, State.storedBc]
  unfold calcRtuLength
  rw [hc]
  cases hk : s.kind <;> simp only [hk] at h <;> simp [h, FrameKind.length]

theorem voff_eq (s : State) : s.voff = match s.kind with
    | .readResponse => some 9
    | .singleWrite => some 10
    | .writeRequest => some 13
    | .exception | .readRequest | .writeResponse | .other => none := by
  have h := kind_says s
  rw [State.voff, hasRv_eq]
  cases hk : s.kind <;> simp only [hk] at h <;> simp [h]

/-- The start and length of the payload (R151, R192): the pair the statements call `values`. -/
theorem values_eq (s : State) : s.values = s.voff.map fun off => (off, s.bcOrZero) := by
  rw [State.values, voff_eq, State.bcOrZero, byteCount_eq]
  cases s.kind <;> rfl

/-- Where the payload lies in BUF: after the header, and below 270 (R64). -/
theorem values_bound {s : State} {off bc : Nat} (h : s.values = some (off, bc)) :
    9 ≤ off ∧ bc < 256 ∧ off + bc < 269 := by
  have h8 := byte_lt s 8
  have h12 := byte_lt s 12
  unfold State.values at h
  split at h <;> simp at h <;> obtain ⟨rfl, rfl⟩ := h <;> omega

/-- The length of a frame: at most 264, and at least 5 where the kind is not `other` (R149, R64). -/
theorem frameLength_le (s : State) : s.frameLength ≤ 264 := by
  have h8 := byte_lt s 8
  have h12 := byte_lt s 12
  unfold State.frameLength State.storedBc FrameKind.length
  cases s.kind <;> simp <;> omega

theorem frameLength_ge (s : State) (h : s.kind ≠ .other) : 5 ≤ s.frameLength := by
  unfold State.frameLength State.storedBc FrameKind.length
  cases hk : s.kind <;> simp_all
  omega

theorem frameLength_lt_two (s : State) : s.frameLength < 2 ↔ s.kind = .other := by
  constructor
  · intro h
    by_contra hk
    have := frameLength_ge s hk
    omega
  · intro h
    simp [State.frameLength, h, FrameKind.length]

end Sys2Proof.Machine
end

