-- ==== Sys2Proof/Laws/PerInstr.lean ====
section
/-! SUPPORT. Laws of the commands as syntax, one lemma per constructor. Family `EncodeRow`: bits 7:0 of the word the
encoder writes are the match value of a row of the opcode map (spec/30_encoding.md R80, R83). -/

namespace Sys2Proof.Laws.EncodeRow

/-- The opcode of the command's word is the match value of a row of the opcode map. -/
def Statement (i : Instr) : Prop :=
  (opcodeOf (encode i)).setWidth 32 ∈ opcodeMap.map OpcodeRow.value

theorem of_row {i : Instr} (op : Byte) (k : Nat) (ho : opcodeOf (encode i) = op)
    (hk : (opcodeMap.map OpcodeRow.value)[k]? = some (op.setWidth 32)) : Statement i := by
  rw [Statement, ho]
  exact List.mem_of_getElem? hk

theorem nop : Statement .nop :=
  of_row 0x00 0 (opcodeOf_rWord _ _ _ _ _ _ _) rfl

theorem ldi (rd : Reg) (imm : Half) : Statement (.ldi rd imm) :=
  of_row 0x01 1 (opcodeOf_iWord _ _ _) rfl

theorem ldih (rd : Reg) (imm : Half) : Statement (.ldih rd imm) :=
  of_row 0x02 2 (opcodeOf_iWord _ _ _) rfl

theorem mov (rd rs1 : Reg) : Statement (.mov rd rs1) :=
  of_row 0x03 3 (opcodeOf_rWord _ _ _ _ _ _ _) rfl

theorem clrf : Statement .clrf :=
  of_row 0x04 4 (opcodeOf_rWord _ _ _ _ _ _ _) rfl

theorem reset : Statement .reset :=
  of_row 0x05 5 (opcodeOf_rWord _ _ _ _ _ _ _) rfl

theorem rderr (rd : Reg) : Statement (.rderr rd) :=
  of_row 0x06 6 (opcodeOf_rWord _ _ _ _ _ _ _) rfl

theorem ldb (rd rs1 : Reg) : Statement (.ldb rd rs1) :=
  of_row 0x10 7 (opcodeOf_rWord _ _ _ _ _ _ _) rfl

theorem stb (rs1 rs2 : Reg) : Statement (.stb rs1 rs2) :=
  of_row 0x11 8 (opcodeOf_rWord _ _ _ _ _ _ _) rfl

theorem ldw (rd rs1 : Reg) : Statement (.ldw rd rs1) :=
  of_row 0x12 9 (opcodeOf_rWord _ _ _ _ _ _ _) rfl

theorem stw (rs1 rs2 : Reg) : Statement (.stw rs1 rs2) :=
  of_row 0x13 10 (opcodeOf_rWord _ _ _ _ _ _ _) rfl

theorem ldo (rd rs1 : Reg) : Statement (.ldo rd rs1) :=
  of_row 0x14 11 (opcodeOf_rWord _ _ _ _ _ _ _) rfl

theorem sto (rs1 rs2 : Reg) : Statement (.sto rs1 rs2) :=
  of_row 0x15 12 (opcodeOf_rWord _ _ _ _ _ _ _) rfl

theorem unpkU8 (rd rs1 rs2 : Reg) (ord : ByteOrder) : Statement (.unpkU8 rd rs1 rs2 ord) :=
  of_row 0x20 13 (opcodeOf_rWord _ _ _ _ _ _ _) rfl

theorem unpkU16 (rd rs1 rs2 : Reg) : Statement (.unpkU16 rd rs1 rs2) :=
  of_row 0x21 14 (opcodeOf_rWord _ _ _ _ _ _ _) rfl

theorem unpkU32 (rd rs1 rs2 : Reg) : Statement (.unpkU32 rd rs1 rs2) :=
  of_row 0x22 15 (opcodeOf_rWord _ _ _ _ _ _ _) rfl

theorem unpkF32 (rd rs1 rs2 : Reg) : Statement (.unpkF32 rd rs1 rs2) :=
  of_row 0x23 16 (opcodeOf_rWord _ _ _ _ _ _ _) rfl

theorem unpkStr (rd rs1 rs2 : Reg) : Statement (.unpkStr rd rs1 rs2) :=
  of_row 0x24 17 (opcodeOf_rWord _ _ _ _ _ _ _) rfl

theorem unpkOct (rd rs1 rs2 : Reg) : Statement (.unpkOct rd rs1 rs2) :=
  of_row 0x25 18 (opcodeOf_rWord _ _ _ _ _ _ _) rfl

theorem packU8 (rv rs1 rs2 : Reg) (ord : ByteOrder) : Statement (.packU8 rv rs1 rs2 ord) :=
  of_row 0x28 19 (opcodeOf_rWord _ _ _ _ _ _ _) rfl

theorem packU16 (rv rs1 rs2 : Reg) : Statement (.packU16 rv rs1 rs2) :=
  of_row 0x29 20 (opcodeOf_rWord _ _ _ _ _ _ _) rfl

theorem packU32 (rv rs1 rs2 : Reg) : Statement (.packU32 rv rs1 rs2) :=
  of_row 0x2A 21 (opcodeOf_rWord _ _ _ _ _ _ _) rfl

theorem packF32 (rv rs1 rs2 : Reg) : Statement (.packF32 rv rs1 rs2) :=
  of_row 0x2B 22 (opcodeOf_rWord _ _ _ _ _ _ _) rfl

theorem packStr (rv rs1 rs2 : Reg) : Statement (.packStr rv rs1 rs2) :=
  of_row 0x2C 23 (opcodeOf_rWord _ _ _ _ _ _ _) rfl

theorem packOct (rv rs1 rs2 : Reg) : Statement (.packOct rv rs1 rs2) :=
  of_row 0x2D 24 (opcodeOf_rWord _ _ _ _ _ _ _) rfl

theorem getTid (rd : Reg) : Statement (.getTid rd) :=
  of_row 0x30 25 (opcodeOf_rWord _ _ _ _ _ _ _) rfl

theorem getPid (rd : Reg) : Statement (.getPid rd) :=
  of_row 0x31 26 (opcodeOf_rWord _ _ _ _ _ _ _) rfl

theorem getMlen (rd : Reg) : Statement (.getMlen rd) :=
  of_row 0x32 27 (opcodeOf_rWord _ _ _ _ _ _ _) rfl

theorem getSid (rd : Reg) : Statement (.getSid rd) :=
  of_row 0x33 28 (opcodeOf_rWord _ _ _ _ _ _ _) rfl

theorem getFc (rd : Reg) : Statement (.getFc rd) :=
  of_row 0x34 29 (opcodeOf_rWord _ _ _ _ _ _ _) rfl

theorem getSa (rd : Reg) : Statement (.getSa rd) :=
  of_row 0x35 30 (opcodeOf_rWord _ _ _ _ _ _ _) rfl

theorem getRc (rd : Reg) : Statement (.getRc rd) :=
  of_row 0x36 31 (opcodeOf_rWord _ _ _ _ _ _ _) rfl

theorem getBc (rd : Reg) : Statement (.getBc rd) :=
  of_row 0x37 32 (opcodeOf_rWord _ _ _ _ _ _ _) rfl

theorem getEc (rd : Reg) : Statement (.getEc rd) :=
  of_row 0x38 33 (opcodeOf_rWord _ _ _ _ _ _ _) rfl

theorem getIsexc (rd : Reg) : Statement (.getIsexc rd) :=
  of_row 0x39 34 (opcodeOf_rWord _ _ _ _ _ _ _) rfl

theorem getIsreq (rd : Reg) : Statement (.getIsreq rd) :=
  of_row 0x3A 35 (opcodeOf_rWord _ _ _ _ _ _ _) rfl

theorem getHassa (rd : Reg) : Statement (.getHassa rd) :=
  of_row 0x3B 36 (opcodeOf_rWord _ _ _ _ _ _ _) rfl

theorem getHasrv (rd : Reg) : Statement (.getHasrv rd) :=
  of_row 0x3C 37 (opcodeOf_rWord _ _ _ _ _ _ _) rfl

theorem getRtulen (rd : Reg) : Statement (.getRtulen rd) :=
  of_row 0x3D 38 (opcodeOf_rWord _ _ _ _ _ _ _) rfl

theorem getPdulen (rd : Reg) : Statement (.getPdulen rd) :=
  of_row 0x3E 39 (opcodeOf_rWord _ _ _ _ _ _ _) rfl

theorem getTcplen (rd : Reg) : Statement (.getTcplen rd) :=
  of_row 0x3F 40 (opcodeOf_rWord _ _ _ _ _ _ _) rfl

theorem setTid (rs1 : Reg) : Statement (.setTid rs1) :=
  of_row 0x40 41 (opcodeOf_rWord _ _ _ _ _ _ _) rfl

theorem setPid (rs1 : Reg) : Statement (.setPid rs1) :=
  of_row 0x41 42 (opcodeOf_rWord _ _ _ _ _ _ _) rfl

theorem setMlen (rs1 : Reg) : Statement (.setMlen rs1) :=
  of_row 0x42 43 (opcodeOf_rWord _ _ _ _ _ _ _) rfl

theorem setSid (rs1 : Reg) : Statement (.setSid rs1) :=
  of_row 0x43 44 (opcodeOf_rWord _ _ _ _ _ _ _) rfl

theorem setFc (rs1 : Reg) : Statement (.setFc rs1) :=
  of_row 0x44 45 (opcodeOf_rWord _ _ _ _ _ _ _) rfl

theorem setSa (rs1 : Reg) : Statement (.setSa rs1) :=
  of_row 0x45 46 (opcodeOf_rWord _ _ _ _ _ _ _) rfl

theorem setRc (rs1 : Reg) : Statement (.setRc rs1) :=
  of_row 0x46 47 (opcodeOf_rWord _ _ _ _ _ _ _) rfl

theorem setBc (rs1 : Reg) : Statement (.setBc rs1) :=
  of_row 0x47 48 (opcodeOf_rWord _ _ _ _ _ _ _) rfl

theorem setEc (rs1 : Reg) : Statement (.setEc rs1) :=
  of_row 0x48 49 (opcodeOf_rWord _ _ _ _ _ _ _) rfl

theorem setIsexc (rs1 : Reg) : Statement (.setIsexc rs1) :=
  of_row 0x49 50 (opcodeOf_rWord _ _ _ _ _ _ _) rfl

theorem setIsreq (rs1 : Reg) : Statement (.setIsreq rs1) :=
  of_row 0x4A 51 (opcodeOf_rWord _ _ _ _ _ _ _) rfl

theorem getv (rd : Reg) : Statement (.getv rd) :=
  of_row 0x50 52 (opcodeOf_rWord _ _ _ _ _ _ _) rfl

theorem putv (rs1 : Reg) : Statement (.putv rs1) :=
  of_row 0x51 53 (opcodeOf_rWord _ _ _ _ _ _ _) rfl

theorem getVoff (rd : Reg) : Statement (.getVoff rd) :=
  of_row 0x52 54 (opcodeOf_rWord _ _ _ _ _ _ _) rfl

theorem crcInit : Statement .crcInit :=
  of_row 0x58 55 (opcodeOf_rWord _ _ _ _ _ _ _) rfl

theorem crcUpd (rs1 : Reg) : Statement (.crcUpd rs1) :=
  of_row 0x59 56 (opcodeOf_rWord _ _ _ _ _ _ _) rfl

theorem crcRd (rd : Reg) : Statement (.crcRd rd) :=
  of_row 0x5A 57 (opcodeOf_rWord _ _ _ _ _ _ _) rfl

theorem crcBuf (rd rs1 rs2 : Reg) : Statement (.crcBuf rd rs1 rs2) :=
  of_row 0x5B 58 (opcodeOf_rWord _ _ _ _ _ _ _) rfl

theorem crcCalc (rd : Reg) : Statement (.crcCalc rd) :=
  of_row 0x5C 59 (opcodeOf_rWord _ _ _ _ _ _ _) rfl

theorem crcStored (rd : Reg) : Statement (.crcStored rd) :=
  of_row 0x5D 60 (opcodeOf_rWord _ _ _ _ _ _ _) rfl

theorem crcAppend : Statement .crcAppend :=
  of_row 0x5E 61 (opcodeOf_rWord _ _ _ _ _ _ _) rfl

theorem lrcInit : Statement .lrcInit :=
  of_row 0x60 62 (opcodeOf_rWord _ _ _ _ _ _ _) rfl

theorem lrcUpd (rs1 : Reg) : Statement (.lrcUpd rs1) :=
  of_row 0x61 63 (opcodeOf_rWord _ _ _ _ _ _ _) rfl

theorem lrcRd (rd : Reg) : Statement (.lrcRd rd) :=
  of_row 0x62 64 (opcodeOf_rWord _ _ _ _ _ _ _) rfl

theorem lrcBuf (rd rs1 rs2 : Reg) : Statement (.lrcBuf rd rs1 rs2) :=
  of_row 0x63 65 (opcodeOf_rWord _ _ _ _ _ _ _) rfl

theorem calcRtulen (rd rs1 rs2 : Reg) (req exc : Bool) : Statement (.calcRtulen rd rs1 rs2 req exc) :=
  of_row 0x68 66 (opcodeOf_rWord _ _ _ _ _ _ _) rfl

theorem expRlen (rd : Reg) : Statement (.expRlen rd) :=
  of_row 0x69 67 (opcodeOf_rWord _ _ _ _ _ _ _) rfl

theorem txtime (rd rs1 rs2 : Reg) : Statement (.txtime rd rs1 rs2) :=
  of_row 0x6A 68 (opcodeOf_rWord _ _ _ _ _ _ _) rfl

theorem build (req : Bool) : Statement (.build req) :=
  of_row 0x70 69 (opcodeOf_rWord _ _ _ _ _ _ _) rfl

theorem buildExc : Statement .buildExc :=
  of_row 0x71 70 (opcodeOf_rWord _ _ _ _ _ _ _) rfl

theorem valRtu (rd : Reg) : Statement (.valRtu rd) :=
  of_row 0x72 71 (opcodeOf_rWord _ _ _ _ _ _ _) rfl

theorem valTcp (rd : Reg) : Statement (.valTcp rd) :=
  of_row 0x73 72 (opcodeOf_rWord _ _ _ _ _ _ _) rfl

end Sys2Proof.Laws.EncodeRow
end

