-- ==== Sys2Proof/Laws/Values.lean ====
section
/-! SUPPORT. The strings of the packer and the payloads of a frame, element by element, in the numbers the statements
use. -/

namespace Sys2Proof.Machine

/-! ### Packer (R53, R124, R130 to R133) -/

theorem ceilDiv_two (n : Nat) : ceilDiv n 2 = (n + 1) / 2 := by simp [ceilDiv]

theorem ceilDiv_eight (n : Nat) : ceilDiv n 8 = (n + 7) / 8 := by simp [ceilDiv]

/-- Rounding up gives the least whole number not below the quotient. -/
theorem roundDiv_ceil_bounds (a : Nat) {b : Nat} (hb : b ≠ 0) :
    a ≤ roundDiv .ceil a b * b ∧ roundDiv .ceil a b * b < a + b := by
  have h := Nat.div_add_mod (a + b - 1) b
  have hm := Nat.mod_lt (a + b - 1) (Nat.pos_of_ne_zero hb)
  rw [Nat.mul_comm] at h
  simp only [roundDiv, ceilDiv]
  omega

/-- Rounding to the nearest gives a whole number at most a half from the quotient, and never a half below it. -/
theorem roundDiv_nearest_bounds (a : Nat) {b : Nat} (hb : b ≠ 0) :
    2 * a < 2 * (roundDiv .nearest a b * b) + b ∧ 2 * (roundDiv .nearest a b * b) ≤ 2 * a + b := by
  have h := Nat.div_add_mod (2 * a + b) (2 * b)
  have hm := Nat.mod_lt (2 * a + b) (Nat.mul_pos two_pos (Nat.pos_of_ne_zero hb))
  rw [Nat.mul_assoc, Nat.mul_comm b] at h
  simp only [roundDiv]
  omega

/-- No rounding goes above the dividend itself, so TXTIME's result fits its register. -/
theorem roundDiv_le (r : TxtimeRounding) (a : Nat) {b : Nat} (hb : b ≠ 0) : roundDiv r a b ≤ a := by
  have hp := Nat.pos_of_ne_zero hb
  by_contra h
  have hm := Nat.mul_le_mul_right b (Nat.lt_of_not_le h)
  cases r
  · have := (roundDiv_ceil_bounds a hb).2
    nlinarith
  · have := (roundDiv_nearest_bounds a hb).2
    nlinarith

theorem readPair_toNat (s : State) (b : Nat) :
    (readPair s.w b).toNat = 65536 * s.word b + s.word (b + 1) := by
  rw [readPair, BitVec.toNat_append, ← Nat.shiftLeft_add_eq_or_of_lt (BitVec.isLt _), Nat.shiftLeft_eq]
  simp [State.word]
  omega

theorem spanBytes_length (w : Mem 16) (b n : Nat) : (spanBytes w b n).length = 2 * n := by
  induction n with
  | zero => rfl
  | succ n ih => simp only [spanBytes, List.range_succ, List.flatMap_append] at ih ⊢; simp at ih ⊢; omega

theorem spanBytes_getElem (s : State) (b n i : Nat) (h : i < (spanBytes s.w b n).length) :
    ((spanBytes s.w b n)[i]).toNat = s.spanByte b i := by
  induction n with
  | zero => simp [spanBytes] at h
  | succ n ih =>
    have hl := spanBytes_length s.w b n
    have e : spanBytes s.w b (n + 1) =
        spanBytes s.w b n ++ [hiByte (Memory.read s.w (b + n)), loByte (Memory.read s.w (b + n))] := by
      simp [spanBytes, List.range_succ, List.flatMap_append]
    simp only [e] at h ⊢
    by_cases hi : i < (spanBytes s.w b n).length
    · rw [List.getElem_append_left hi]
      exact ih hi
    · rw [List.getElem_append_right (by omega)]
      simp [hl] at h
      have : i = 2 * n ∨ i = 2 * n + 1 := by omega
      rcases this with rfl | rfl
      · simp [hl, hiByte_toNat, State.spanByte, State.word]
      · have e1 : (2 * n + 1) / 2 = n := by omega
        have e2 : (2 * n + 1) % 2 = 1 := by omega
        simp [hl, loByte_toNat, State.spanByte, State.word, e1, e2]

theorem stringBytes_prefix (l : List Byte) : stringBytes l <+: l := List.takeWhile_prefix _

theorem stringBytes_ne_zero (l : List Byte) {b : Byte} (h : b ∈ stringBytes l) : b ≠ 0 := by
  simpa using List.mem_takeWhile_imp h

/-- Where the string ends before the slice does, it ends at a zero byte. -/
theorem stringBytes_stop (l : List Byte) (h : (stringBytes l).length < l.length) :
    l[(stringBytes l).length] = 0 := by
  induction l with
  | nil => simp at h
  | cons a l ih =>
    by_cases ha : a = 0
    · subst ha
      simp [stringBytes]
    · have e : stringBytes (a :: l) = a :: stringBytes l := by
        have hd : decide (a ≠ 0) = true := by simpa using ha
        exact List.takeWhile_cons_of_pos hd
      simp only [e, List.length_cons, List.getElem_cons_succ] at h ⊢
      exact ih (by omega)

theorem packedWord_toNat (s : State) (len k : Nat) : (packedWord s.oct len k).toNat =
    256 * s.paddedOctet len (2 * k) + s.paddedOctet len (2 * k + 1) := by
  rw [packedWord, half_toNat]
  unfold State.paddedOctet State.octet
  split <;> split <;> rfl

/-! ### Frame payloads (R190 to R193) -/

theorem getLsbD_eq_div {n : Nat} (b : BitVec n) (j : Nat) : b.getLsbD j = decide (b.toNat / 2 ^ j % 2 = 1) := by
  rw [BitVec.getLsbD, Nat.testBit_eq_decide_div_mod_eq]

theorem bitElement_toNat (s : State) (off i : Nat) : (bitElement s.buf off i).toNat =
    if s.byte (off + i / 8) / 2 ^ (i % 8) % 2 = 1 then 0xFF00 else 0 := by
  rw [bitElement, getLsbD_eq_div]
  by_cases h : s.byte (off + i / 8) / 2 ^ (i % 8) % 2 = 1
  · rw [if_pos h, if_pos (by simpa [State.byte] using h)]; rfl
  · rw [if_neg h, if_neg (by simpa [State.byte] using h)]; rfl

theorem wordElement_toNat (s : State) (off k : Nat) :
    (wordElement s.buf off k).toNat = 256 * s.byte (off + 2 * k) + s.byte (off + 2 * k + 1) :=
  be16_toNat s _

theorem elem_toNat (s : State) (count i : Nat) : (elem s.w count i).toNat = s.element count i := by
  unfold elem State.element State.word
  split <;> rfl

theorem element_lt (s : State) (count i : Nat) : s.element count i < 65536 := by
  rw [← elem_toNat]
  exact BitVec.isLt _

theorem coilSet_eq (rule : CoilTrueRule) (h : Half) : coilSet rule h = countsAsSet rule h.toNat := by
  cases rule
  · by_cases hz : h = 0
    · simp [coilSet, countsAsSet, hz]
    · have : h.toNat ≠ 0 := fun e => hz (BitVec.eq_of_toNat_eq (by simpa using e))
      change (h != 0) = (h.toNat != 0)
      rw [bne_iff_ne.2 hz, bne_iff_ne.2 this]
  · by_cases hz : h = coilOn
    · subst hz; rfl
    · have : h.toNat ≠ 0xFF00 := fun e => hz (BitVec.eq_of_toNat_eq (by simpa [coilOn] using e))
      change (h == coilOn) = (h.toNat == 0xFF00)
      rw [beq_eq_false_iff_ne.2 hz, beq_eq_false_iff_ne.2 this]

/-- The sum of the powers of two of the set places has exactly those bits. -/
theorem bits_of_sum (g : Nat → Bool) {j : Nat} (hj : j < 8) :
    ((BitVec.ofNat 8 ((List.range 8).map fun i => if g i then 2 ^ i else 0).sum).toNat / 2 ^ j % 2 = 1) ↔
      g j = true := by
  have key : ∀ a b c d e f h k : Bool, ∀ j < 8,
      decide ((BitVec.ofNat 8 ((if a then 1 else 0) + ((if b then 2 else 0) + ((if c then 4 else 0) +
        ((if d then 8 else 0) + ((if e then 16 else 0) + ((if f then 32 else 0) +
        ((if h then 64 else 0) + (if k then 128 else 0))))))))).toNat / 2 ^ j % 2 = 1) =
      [a, b, c, d, e, f, h, k].getD j false := by decide
  have := key (g 0) (g 1) (g 2) (g 3) (g 4) (g 5) (g 6) (g 7) j hj
  have e : ((List.range 8).map fun i => if g i then 2 ^ i else 0).sum =
      (if g 0 then 1 else 0) + ((if g 1 then 2 else 0) + ((if g 2 then 4 else 0) +
        ((if g 3 then 8 else 0) + ((if g 4 then 16 else 0) + ((if g 5 then 32 else 0) +
        ((if g 6 then 64 else 0) + (if g 7 then 128 else 0))))))) := rfl
  rw [e, Iff.comm, ← decide_eq_true_iff (p := _ = 1), this]
  interval_cases j <;> rfl

theorem bitPayloadByte_bit (s : State) (count k : Nat) {j : Nat} (hj : j < 8) :
    (bitPayloadByte s.cfg.coilTrueRule s.w count k).toNat / 2 ^ j % 2 = 1 ↔
      countsAsSet s.cfg.coilTrueRule (s.element count (8 * k + j)) = true := by
  rw [bitPayloadByte, bits_of_sum (fun j => coilSet s.cfg.coilTrueRule (elem s.w count (8 * k + j))) hj,
    coilSet_eq, elem_toNat]

theorem wordPayloadByte_toNat (s : State) (count i : Nat) : (wordPayloadByte s.w count i).toNat =
    if i % 2 = 0 then s.element count (i / 2) / 256 else s.element count (i / 2) % 256 := by
  unfold wordPayloadByte
  split
  · rw [hiByte_toNat, elem_toNat]
  · rw [loByte_toNat, elem_toNat]

@[simp] theorem payload_length (rule : CoilTrueRule) (fc : Nat) (w : Mem 16) (count n : Nat) :
    (payload rule fc w count n).length = n := by simp [payload]

/-- A state whose BUF holds the payload bytes from `off` on holds the packed elements. -/
theorem packsElements_of_payload {s t : State} {fc off bc count : Nat}
    (h : ∀ i (hi : i < bc), Memory.read t.buf (off + i) =
      (payload s.cfg.coilTrueRule fc s.w count bc)[i]'(by simpa using hi)) :
    PacksElements s t fc off bc count := by
  unfold PacksElements
  split
  · rename_i hb
    intro k hk j hj
    have := h k hk
    simp only [payload, (bitFn_iff fc).2 hb, if_true, List.getElem_map, List.getElem_range] at this
    rw [State.byte, this]
    exact bitPayloadByte_bit s count k hj
  · rename_i hb
    intro i hi
    have hf : bitFn fc = false := by simpa using fun hc => hb ((bitFn_iff fc).1 hc)
    have := h i hi
    simp only [payload, hf, Bool.false_eq_true, if_false, List.getElem_map, List.getElem_range] at this
    rw [State.byte, this]
    exact wordPayloadByte_toNat s count i

end Sys2Proof.Machine
end

