-- ==== Sys2Proof/Tests/Slice0.lean ====
section
/-! SUPPORT. Tests of the model. The expected results are the spec's own: 95_test_vectors.md unless a comment names
another file. -/

namespace Sys2Proof.Tests

open Sys2Proof.Machine

/-! ### Helpers -/

/-- Registers and runs of elements written into the reset state. -/
def given (xs : List (Reg × Nat)) (buf w oct : List (Nat × List Nat)) : State :=
  let s := xs.foldl (fun s p => s.setX p.1 (BitVec.ofNat 32 p.2)) State.reset
  { s with
    buf := buf.foldl (fun m p => Memory.writeRange m p.1 (p.2.map (BitVec.ofNat 8))) []
    w := w.foldl (fun m p => Memory.writeRange m p.1 (p.2.map (BitVec.ofNat 16))) []
    oct := oct.foldl (fun m p => Memory.writeRange m p.1 (p.2.map (BitVec.ofNat 8))) [] }

/-- The parameters with the LRC engine present. -/
def lrcConfig : Config := { hasLrc := true }

/-- The parameters with the rounding of TXTIME that 90_conflicts.md C1 names beside the ceiling. -/
def nearestConfig : Config := { txtimeRounding := .nearest }

/-- The state after the host issues the command word `w`; `s` itself where no command is executed. -/
def after (w : Nat) (s : State) : State :=
  match step (s.withFetchWord 32 w) with
  | .next t => t
  | _ => s

/-- What a test looks at. -/
inductive Seen where
  | x (r : Reg)
  | buf (a : Nat)
  | w (a : Nat)
  | oct (a : Nat)
  | crc
  | lrc
  | dir
  | ferr
  | data
deriving DecidableEq, Repr

/-- Its value. -/
def Seen.value (t : State) : Seen → Nat
  | .x r => t.num r
  | .buf a => t.byte a
  | .w a => t.word a
  | .oct a => t.octet a
  | .crc => t.crc.toNat
  | .lrc => t.lrc.toNat
  | .dir => t.dir.toNat
  | .ferr => t.ferr.toNat
  | .data => (t.responses.getLast?.map fun r => r.data.toNat).getD 0

/-- The command has ended with the status, one response was given with it, and the values are those listed. -/
def shows (t : State) (status : Nat) (l : List (Seen × Nat)) : Bool :=
  t.status.toNat == status && t.responses.map (fun r => r.status.toNat) == [status] &&
    l.all fun p => p.1.value t == p.2

/-! ### One command -/

-- V-A7
theorem test_nop_V_A7 :
    shows (after 0x00000000 (given [] [] [] [])) 0 [] = true := by decide

-- V-I3
theorem test_nop_V_I3 :
    shows (after 0x00000100 (given [(0, 1), (1, 2), (2, 3), (3, 4), (4, 5), (5, 6), (6, 7), (7, 8)] [] [] [])) 5
      [(.ferr, 5)] = true := by decide

-- V-A2
theorem test_ldi_V_A2 :
    shows (after 0xFFFF0301 (given [(3, 1)] [] [] [])) 0 [(.x 3, 0xFFFF)] = true := by decide

-- V-I5
theorem test_ldi_V_I5 :
    shows (after 0x00010801 (given [(0, 1), (1, 2), (2, 3), (3, 4), (4, 5), (5, 6), (6, 7), (7, 8)] [] [] [])) 5
      [(.ferr, 5)] = true := by decide

-- V-A3
theorem test_ldih_V_A3 :
    shows (after 0x12340302 (given [(3, 0xABCD)] [] [] [])) 0 [(.x 3, 0x1234ABCD)] = true := by decide

-- V-A4
theorem test_ldih_V_A4 :
    shows (after 0x00000302 (given [(3, 0xFFFF0001)] [] [] [])) 0 [(.x 3, 1)] = true := by decide

-- V-A5
theorem test_mov_V_A5 :
    shows (after 0x00000F03 (given [(1, 0x12345678), (7, 5)] [] [] [])) 0 [(.x 7, 0x12345678),
      (.data, 0x12345678)] = true := by decide

-- V-I4
theorem test_mov_V_I4 :
    shows (after 0x00100003 (given [(0, 1), (1, 2), (2, 3), (3, 4), (4, 5), (5, 6), (6, 7), (7, 8)] [] [] [])) 5
      [(.ferr, 5)] = true := by decide

-- V-A9
theorem test_clrf_V_A9 :
    shows (after 0x00000004 { given [] [] [] [] with ferr := 2 }) 0 [(.ferr, 0)] = true := by decide

-- V-A10
theorem test_reset_V_A10 :
    shows (after 0x00000005 { given [(0, 1), (1, 2), (2, 3), (3, 4), (4, 5), (5, 6), (6, 7), (7, 8)] [(7, [3])]
      [(5, [9])] [(1, [1])] with crc := 0x1234, ferr := 4, dir := true }) 0 [(.dir, 0), (.crc, 0xFFFF),
      (.ferr, 0), (.buf 7, 0), (.w 5, 0), (.oct 1, 0)] = true := by decide

-- V-A8
theorem test_rderr_V_A8 :
    shows (after 0x00000206 { given [] [] [] [] with ferr := 2, status := 2 }) 0 [(.x 2, 2), (.ferr, 2)] = true := by decide

-- V-B1
theorem test_ldb_V_B1 :
    shows (after 0x00000810 (given [(1, 0x12B)] [(299, [0xA5])] [] [])) 0 [(.x 0, 0xA5)] = true := by decide

-- V-B2
theorem test_ldb_V_B2 :
    shows (after 0x00000810 (given [(0, 7), (1, 0x12C)] [] [] [])) 2 [(.x 0, 7), (.ferr, 2)] = true := by decide

-- V-B4
theorem test_stb_V_B4 :
    shows (after 0x00008811 (given [(1, 6), (2, 0x1FF)] [] [] [])) 0 [(.buf 6, 0xFF), (.buf 5, 0), (.buf 7, 0)]
      = true := by decide

-- V-B5
theorem test_stb_V_B5 :
    shows (after 0x00008811 (given [(1, 0x12C), (2, 1)] [] [] [])) 2 [] = true := by decide

-- V-B6
theorem test_ldw_V_B6 :
    shows (after 0x00000812 (given [(1, 0x7FF)] [] [(2047, [0xBEEF])] [])) 0 [(.x 0, 0xBEEF)] = true := by decide

-- V-B7
theorem test_ldw_V_B7 :
    shows (after 0x00000812 (given [(1, 0x800)] [] [] [])) 2 [(.x 0, 0)] = true := by decide

-- V-B8
theorem test_stw_V_B8 :
    shows (after 0x00008813 (given [(1, 0), (2, 0x12345)] [] [] [])) 0 [(.w 0, 0x2345)] = true := by decide

-- V-B9
theorem test_stw_V_B9 :
    shows (after 0x00008813 (given [(1, 0x800), (2, 1)] [] [] [])) 2 [] = true := by decide

-- V-B10
theorem test_ldo_V_B10 :
    shows (after 0x00000814 (given [(1, 0xFF)] [] [] [(255, [0x7F])])) 0 [(.x 0, 0x7F)] = true := by decide

-- V-B11
theorem test_ldo_V_B11 :
    shows (after 0x00000814 (given [(1, 0x100)] [] [] [])) 2 [(.x 0, 0)] = true := by decide

-- V-B12
theorem test_sto_V_B12 :
    shows (after 0x00008815 (given [(1, 3), (2, 0xFFFFFF41)] [] [] [])) 0 [(.oct 3, 0x41)] = true := by decide

-- V-B13
theorem test_sto_V_B13 :
    shows (after 0x00008815 (given [(1, 0x100), (2, 0)] [] [] [])) 2 [] = true := by decide

-- V-C1
theorem test_unpkU8_V_C1 :
    shows (after 0x00008820 (given [(1, 4), (2, 1)] [] [(4, [0xABCD])] [])) 0 [(.x 0, 0xAB)] = true := by decide

-- V-C2
theorem test_unpkU8_V_C2 :
    shows (after 0x00028820 (given [(1, 4), (2, 1)] [] [(4, [0xABCD])] [])) 0 [(.x 0, 0xCD)] = true := by decide

-- V-C3
theorem test_unpkU16_V_C3 :
    shows (after 0x00008821 (given [(1, 4), (2, 1)] [] [(4, [0xABCD])] [])) 0 [(.x 0, 0xABCD)] = true := by decide

-- V-C4
theorem test_unpkU16_V_C4 :
    shows (after 0x00008821 (given [(1, 4), (2, 0)] [] [(4, [0xABCD])] [])) 1 [(.x 0, 0)] = true := by decide

-- V-C5
theorem test_unpkU32_V_C5 :
    shows (after 0x00008822 (given [(1, 0), (2, 2)] [] [(0, [0x1234, 0x5678])] [])) 0 [(.x 0, 0x12345678)] =
      true := by decide

-- V-C6
theorem test_unpkU32_V_C6 :
    shows (after 0x00008822 (given [(1, 0), (2, 1)] [] [(0, [0x1234, 0x5678])] [])) 1 [(.x 0, 0)] = true := by decide

-- V-C8
theorem test_unpkF32_V_C8 :
    shows (after 0x00008823 (given [(1, 0x7FE), (2, 2)] [] [(2046, [0xC020, 0])] [])) 0 [(.x 0, 0xC0200000)] =
      true := by decide

-- V-C9
theorem test_unpkF32_V_C9 :
    shows (after 0x00008823 (given [(1, 0x7FF), (2, 2)] [] [] [])) 2 [(.x 0, 0)] = true := by decide

-- V-C20
theorem test_unpkStr_V_C20 :
    shows (after 0x00008C24 (given [(1, 0), (2, 2)] [] [(0, [0x4142, 0x4344])] [])) 0 [(.x 4, 4),
      (.oct 0, 0x41), (.oct 1, 0x42), (.oct 2, 0x43), (.oct 3, 0x44)] = true := by decide

-- V-C22
theorem test_unpkStr_V_C22 :
    shows (after 0x00008C24 (given [(1, 0), (2, 0x81)] [] [] [])) 1 [(.x 4, 0)] = true := by decide

-- V-C24
set_option maxRecDepth 10000 in
theorem test_unpkOct_V_C24 :
    shows (after 0x00008C25 (given [(1, 0), (2, 0x80)] [] [(127, [0x1234])] [])) 0 [(.x 4, 0x100),
      (.oct 254, 0x12), (.oct 255, 0x34)] = true := by decide

-- V-C23
theorem test_unpkOct_V_C23 :
    shows (after 0x00008C25 (given [(1, 0), (2, 0x81)] [] [] [])) 1 [(.x 4, 0)] = true := by decide

-- V-C12
theorem test_packU8_V_C12 :
    shows (after 0x00008B28 (given [(1, 3), (2, 1), (3, 0xFFFFFFAB)] [] [(3, [0x1122])] [])) 0 [(.w 3, 0xAB22)]
      = true := by decide

-- V-C13
theorem test_packU8_V_C13 :
    shows (after 0x00028B28 (given [(1, 3), (2, 1), (3, 0xFFFFFFAB)] [] [(3, [0x1122])] [])) 0 [(.w 3, 0x11AB)]
      = true := by decide

-- V-C14
theorem test_packU16_V_C14 :
    shows (after 0x00008B29 (given [(1, 3), (2, 1), (3, 0xFFFFFFAB)] [] [(3, [0x1122])] [])) 0 [(.w 3, 0xFFAB)]
      = true := by decide

-- V-C15
theorem test_packU32_V_C15 :
    shows (after 0x00008B2A (given [(1, 0xA), (2, 2), (3, 0x12345678)] [] [] [])) 0 [(.w 10, 0x1234),
      (.w 11, 0x5678)] = true := by decide

-- V-C16
theorem test_packU32_V_C16 :
    shows (after 0x00008B2A (given [(1, 0xA), (2, 1), (3, 0x12345678)] [] [] [])) 1 [(.w 10, 0)] = true := by decide

-- V-C17
theorem test_packF32_V_C17 :
    shows (after 0x00008B2B (given [(1, 0), (2, 2), (3, 0x3F800000)] [] [] [])) 0 [(.w 0, 0x3F80), (.w 1, 0)] =
      true := by decide

-- V-C18
theorem test_packF32_V_C18 :
    shows (after 0x00008B2B (given [(1, 0), (2, 2), (3, 0x7FC00001)] [] [] [])) 0 [(.w 0, 0x7FC0), (.w 1, 1)] =
      true := by decide

-- V-C25
theorem test_packStr_V_C25 :
    shows (after 0x00008B2C (given [(1, 0), (2, 4), (3, 5)] [] [(3, [0x9999])] [(0, [0x48, 0x45, 0x4C, 0x4C,
      0x4F])])) 0 [(.w 0, 0x4845), (.w 1, 0x4C4C), (.w 2, 0x4F00), (.w 3, 0)] = true := by decide

-- V-C27
theorem test_packStr_V_C27 :
    shows (after 0x00008B2C (given [(1, 0), (2, 2), (3, 5)] [] [(3, [0x9999])] [(0, [0x48, 0x45, 0x4C, 0x4C,
      0x4F])])) 1 [] = true := by decide

-- V-C26
theorem test_packOct_V_C26 :
    shows (after 0x00008B2D (given [(1, 0), (2, 4), (3, 5)] [] [(3, [0x9999])] [(0, [0x48, 0x45, 0x4C, 0x4C,
      0x4F])])) 0 [(.w 0, 0x4845), (.w 1, 0x4C4C), (.w 2, 0x4F00), (.w 3, 0x9999)] = true := by decide

-- V-C28
theorem test_packOct_V_C28 :
    shows (after 0x00008B2D (given [(1, 0), (2, 2), (3, 5)] [] [(3, [0x9999])] [(0, [0x48, 0x45, 0x4C, 0x4C,
      0x4F])])) 1 [] = true := by decide

-- the frame table of section 1, row F7
theorem test_getTid_F7TID :
    shows (after 0x00000030 { given [(0, 0x4D)] [(0, [0, 2, 0, 0, 0, 6, 0x11, 6, 0, 1, 0, 3, 0x9A, 0x9B])] [] []
      with dir := true }) 0 [(.x 0, 2)] = true := by decide

-- V-I7
theorem test_getTid_V_I7 :
    shows (after 0x00040030 (given [(0, 1), (1, 2), (2, 3), (3, 4), (4, 5), (5, 6), (6, 7), (7, 8)] [] [] [])) 5
      [(.ferr, 5)] = true := by decide

-- the frame table of section 1, row F14
theorem test_getPid_F14PID :
    shows (after 0x00000031 { given [(0, 0x4D)] [(0, [0, 0, 0, 0, 0, 4, 1, 0x2B, 0xE, 1])] [] [] with dir :=
      true }) 0 [(.x 0, 0)] = true := by decide

-- the frame table of section 1, row F12
theorem test_getPid_F12PID :
    shows (after 0x00000031 { given [(0, 0x4D)] [(0, [0, 1, 0, 0, 0, 3, 0xA, 0x83, 2, 0xB1, 0x33])] [] [] with
      dir := false }) 0 [(.x 0, 0)] = true := by decide

-- the frame table of section 1, row F14
theorem test_getMlen_F14MLEN :
    shows (after 0x00000032 { given [(0, 0x4D)] [(0, [0, 0, 0, 0, 0, 4, 1, 0x2B, 0xE, 1])] [] [] with dir :=
      true }) 0 [(.x 0, 4)] = true := by decide

-- the frame table of section 1, row F12
theorem test_getMlen_F12MLEN :
    shows (after 0x00000032 { given [(0, 0x4D)] [(0, [0, 1, 0, 0, 0, 3, 0xA, 0x83, 2, 0xB1, 0x33])] [] [] with
      dir := false }) 0 [(.x 0, 3)] = true := by decide

-- the frame table of section 1, row F12
theorem test_getSid_F12SID :
    shows (after 0x00000033 { given [(0, 0x4D)] [(0, [0, 1, 0, 0, 0, 3, 0xA, 0x83, 2, 0xB1, 0x33])] [] [] with
      dir := false }) 0 [(.x 0, 0xA)] = true := by decide

-- the frame table of section 1, row F13
theorem test_getSid_F13SID :
    shows (after 0x00000033 { given [(0, 0x4D)] [(0, [0, 1, 0, 0, 0, 3, 0xA, 0x83, 2, 0xB1, 0x33])] [] [] with
      dir := true }) 0 [(.x 0, 0xA)] = true := by decide

-- the frame table of section 1, row F14
theorem test_getFc_F14FC :
    shows (after 0x00000034 { given [(0, 0x4D)] [(0, [0, 0, 0, 0, 0, 4, 1, 0x2B, 0xE, 1])] [] [] with dir :=
      true }) 0 [(.x 0, 0x2B)] = true := by decide

-- the frame table of section 1, row F12
theorem test_getFc_F12FC :
    shows (after 0x00000034 { given [(0, 0x4D)] [(0, [0, 1, 0, 0, 0, 3, 0xA, 0x83, 2, 0xB1, 0x33])] [] [] with
      dir := false }) 0 [(.x 0, 3)] = true := by decide

-- the frame table of section 1, row F1
theorem test_getSa_F1SA :
    shows (after 0x00000035 { given [(0, 0x4D)] [(0, [0, 0, 0, 0, 0, 6, 4, 1, 0, 0xA, 0, 0xD, 0xDD, 0x98])] []
      [] with dir := true }) 0 [(.x 0, 0xA)] = true := by decide

-- the frame table of section 1, row F2
theorem test_getSa_F2SA :
    shows (after 0x00000035 { given [(0, 0x4D)] [(0, [0, 0, 0, 0, 0, 5, 4, 1, 2, 0xA, 0x11, 0xB3, 0x50])] [] []
      with dir := false }) 4 [(.x 0, 0x4D), (.data, 0)] = true := by decide

-- the frame table of section 1, row F2
theorem test_getRc_F2RC :
    shows (after 0x00000036 { given [(0, 0x4D)] [(0, [0, 0, 0, 0, 0, 5, 4, 1, 2, 0xA, 0x11, 0xB3, 0x50])] [] []
      with dir := false }) 0 [(.x 0, 0x10)] = true := by decide

-- the frame table of section 1, row F12
theorem test_getRc_F12RC :
    shows (after 0x00000036 { given [(0, 0x4D)] [(0, [0, 1, 0, 0, 0, 3, 0xA, 0x83, 2, 0xB1, 0x33])] [] [] with
      dir := false }) 4 [(.x 0, 0x4D), (.data, 0)] = true := by decide

-- the frame table of section 1, row F16
theorem test_getBc_F16BC :
    shows (after 0x00000037 { given [(0, 0x4D)] [(0, [0, 0, 0, 0, 0, 6, 1, 3, 3, 0x11, 0x22, 0x33])] [] [] with
      dir := false }) 0 [(.x 0, 3)] = true := by decide

-- the frame table of section 1, row F12
theorem test_getBc_F12BC :
    shows (after 0x00000037 { given [(0, 0x4D)] [(0, [0, 1, 0, 0, 0, 3, 0xA, 0x83, 2, 0xB1, 0x33])] [] [] with
      dir := false }) 4 [(.x 0, 0x4D), (.data, 0)] = true := by decide

-- the frame table of section 1, row F12
theorem test_getEc_F12EC :
    shows (after 0x00000038 { given [(0, 0x4D)] [(0, [0, 1, 0, 0, 0, 3, 0xA, 0x83, 2, 0xB1, 0x33])] [] [] with
      dir := false }) 0 [(.x 0, 2)] = true := by decide

-- the frame table of section 1, row F1
theorem test_getEc_F1EC :
    shows (after 0x00000038 { given [(0, 0x4D)] [(0, [0, 0, 0, 0, 0, 6, 4, 1, 0, 0xA, 0, 0xD, 0xDD, 0x98])] []
      [] with dir := true }) 4 [(.x 0, 0x4D), (.data, 0)] = true := by decide

-- the frame table of section 1, row F12
theorem test_getIsexc_F12ISEXC :
    shows (after 0x00000039 { given [(0, 0x4D)] [(0, [0, 1, 0, 0, 0, 3, 0xA, 0x83, 2, 0xB1, 0x33])] [] [] with
      dir := false }) 0 [(.x 0, 1)] = true := by decide

-- the frame table of section 1, row F13
theorem test_getIsexc_F13ISEXC :
    shows (after 0x00000039 { given [(0, 0x4D)] [(0, [0, 1, 0, 0, 0, 3, 0xA, 0x83, 2, 0xB1, 0x33])] [] [] with
      dir := true }) 0 [(.x 0, 1)] = true := by decide

-- the frame table of section 1, row F14
theorem test_getIsreq_F14ISREQ :
    shows (after 0x0000003A { given [(0, 0x4D)] [(0, [0, 0, 0, 0, 0, 4, 1, 0x2B, 0xE, 1])] [] [] with dir :=
      true }) 0 [(.x 0, 1)] = true := by decide

-- the frame table of section 1, row F1
theorem test_getIsreq_F1ISREQ :
    shows (after 0x0000003A { given [(0, 0x4D)] [(0, [0, 0, 0, 0, 0, 6, 4, 1, 0, 0xA, 0, 0xD, 0xDD, 0x98])] []
      [] with dir := true }) 0 [(.x 0, 1)] = true := by decide

-- the frame table of section 1, row F1
theorem test_getHassa_F1HASSA :
    shows (after 0x0000003B { given [(0, 0x4D)] [(0, [0, 0, 0, 0, 0, 6, 4, 1, 0, 0xA, 0, 0xD, 0xDD, 0x98])] []
      [] with dir := true }) 0 [(.x 0, 1)] = true := by decide

-- the frame table of section 1, row F3
theorem test_getHassa_F3HASSA :
    shows (after 0x0000003B { given [(0, 0x4D)] [(0, [0, 0, 0, 0, 0, 6, 1, 4, 0, 0, 0, 2, 0x71, 0xCB])] [] []
      with dir := true }) 0 [(.x 0, 1)] = true := by decide

-- the frame table of section 1, row F16
theorem test_getHasrv_F16HASRV :
    shows (after 0x0000003C { given [(0, 0x4D)] [(0, [0, 0, 0, 0, 0, 6, 1, 3, 3, 0x11, 0x22, 0x33])] [] [] with
      dir := false }) 0 [(.x 0, 1)] = true := by decide

-- the frame table of section 1, row F2
theorem test_getHasrv_F2HASRV :
    shows (after 0x0000003C { given [(0, 0x4D)] [(0, [0, 0, 0, 0, 0, 5, 4, 1, 2, 0xA, 0x11, 0xB3, 0x50])] [] []
      with dir := false }) 0 [(.x 0, 1)] = true := by decide

-- the frame table of section 1, row F12
theorem test_getRtulen_F12RTULEN :
    shows (after 0x0000003D { given [(0, 0x4D)] [(0, [0, 1, 0, 0, 0, 3, 0xA, 0x83, 2, 0xB1, 0x33])] [] [] with
      dir := false }) 0 [(.x 0, 5)] = true := by decide

-- the frame table of section 1, row F13
theorem test_getRtulen_F13RTULEN :
    shows (after 0x0000003D { given [(0, 0x4D)] [(0, [0, 1, 0, 0, 0, 3, 0xA, 0x83, 2, 0xB1, 0x33])] [] [] with
      dir := true }) 0 [(.x 0, 5)] = true := by decide

-- the frame table of section 1, row F12
theorem test_getPdulen_F12PDULEN :
    shows (after 0x0000003E { given [(0, 0x4D)] [(0, [0, 1, 0, 0, 0, 3, 0xA, 0x83, 2, 0xB1, 0x33])] [] [] with
      dir := false }) 0 [(.x 0, 2)] = true := by decide

-- the frame table of section 1, row F13
theorem test_getPdulen_F13PDULEN :
    shows (after 0x0000003E { given [(0, 0x4D)] [(0, [0, 1, 0, 0, 0, 3, 0xA, 0x83, 2, 0xB1, 0x33])] [] [] with
      dir := true }) 0 [(.x 0, 2)] = true := by decide

-- the frame table of section 1, row F14
theorem test_getTcplen_F14TCPLEN :
    shows (after 0x0000003F { given [(0, 0x4D)] [(0, [0, 0, 0, 0, 0, 4, 1, 0x2B, 0xE, 1])] [] [] with dir :=
      true }) 0 [(.x 0, 0xA)] = true := by decide

-- the frame table of section 1, row F12
theorem test_getTcplen_F12TCPLEN :
    shows (after 0x0000003F { given [(0, 0x4D)] [(0, [0, 1, 0, 0, 0, 3, 0xA, 0x83, 2, 0xB1, 0x33])] [] [] with
      dir := false }) 0 [(.x 0, 9)] = true := by decide

-- V-D1
theorem test_setTid_V_D1 :
    shows (after 0x00000840 { given [(1, 0xBEEF)] [(0, [0, 0, 0, 0, 0, 6, 4, 1, 0, 0xA, 0, 0xD, 0xDD, 0x98])] []
      [] with dir := true }) 0 [(.buf 0, 0xBE), (.buf 1, 0xEF)] = true := by decide

-- V-D2
theorem test_setTid_V_D2 :
    shows (after 0x00000840 { given [(1, 0x10000)] [(0, [0, 0, 0, 0, 0, 6, 4, 1, 0, 0xA, 0, 0xD, 0xDD, 0x98])]
      [] [] with dir := true }) 3 [(.buf 0, 0), (.buf 1, 0)] = true := by decide

-- V-D3
theorem test_setPid_V_D3 :
    shows (after 0x00000841 { given [(1, 1)] [(0, [0, 0, 0, 0, 0, 6, 4, 1, 0, 0xA, 0, 0xD, 0xDD, 0x98])] [] []
      with dir := true }) 0 [(.buf 2, 0), (.buf 3, 1)] = true := by decide

-- V-D4
theorem test_setMlen_V_D4 :
    shows (after 0x00000842 { given [(1, 0x106)] [(0, [0, 0, 0, 0, 0, 6, 4, 1, 0, 0xA, 0, 0xD, 0xDD, 0x98])] []
      [] with dir := true }) 0 [(.buf 4, 1), (.buf 5, 6)] = true := by decide

-- V-D5
theorem test_setSid_V_D5 :
    shows (after 0x00000843 { given [(1, 0xF7)] [(0, [0, 0, 0, 0, 0, 6, 4, 1, 0, 0xA, 0, 0xD, 0xDD, 0x98])] []
      [] with dir := true }) 0 [(.buf 6, 0xF7)] = true := by decide

-- V-D6
theorem test_setSid_V_D6 :
    shows (after 0x00000843 { given [(1, 0x100)] [(0, [0, 0, 0, 0, 0, 6, 4, 1, 0, 0xA, 0, 0xD, 0xDD, 0x98])] []
      [] with dir := true }) 3 [(.buf 6, 4)] = true := by decide

-- V-D7
theorem test_setFc_V_D7 :
    shows (after 0x00000844 { given [(1, 0x10)] [(0, [0, 1, 0, 0, 0, 3, 0xA, 0x83, 2, 0xB1, 0x33])] [] [] with
      dir := false }) 0 [(.buf 7, 0x90)] = true := by decide

-- V-D8
theorem test_setFc_V_D8 :
    shows (after 0x00000844 { given [(1, 0x80)] [(0, [0, 0, 0, 0, 0, 6, 4, 1, 0, 0xA, 0, 0xD, 0xDD, 0x98])] []
      [] with dir := true }) 3 [(.buf 7, 1)] = true := by decide

-- V-D10
theorem test_setSa_V_D10 :
    shows (after 0x00000845 { given [(1, 0xFFFF)] [(0, [0, 0, 0, 0, 0, 6, 4, 1, 0, 0xA, 0, 0xD, 0xDD, 0x98])] []
      [] with dir := true }) 0 [(.buf 8, 0xFF), (.buf 9, 0xFF)] = true := by decide

-- V-D11
theorem test_setSa_V_D11 :
    shows (after 0x00000845 { given [(1, 1)] [(0, [0, 0, 0, 0, 0, 5, 4, 1, 2, 0xA, 0x11, 0xB3, 0x50])] [] []
      with dir := false }) 4 [] = true := by decide

-- V-D13
theorem test_setRc_V_D13 :
    shows (after 0x00000846 { given [(1, 0x7D0)] [(0, [0, 0, 0, 0, 0, 6, 4, 1, 0, 0xA, 0, 0xD, 0xDD, 0x98])] []
      [] with dir := true }) 0 [(.buf 10, 7), (.buf 11, 0xD0)] = true := by decide

-- V-D14
theorem test_setRc_V_D14 :
    shows (after 0x00000846 { given [(1, 1)] [(0, [0, 1, 0, 0, 0, 6, 0x11, 5, 0, 0xAC, 0xFF, 0, 0x4E, 0x8B])] []
      [] with dir := true }) 4 [] = true := by decide

-- V-D16
theorem test_setBc_V_D16 :
    shows (after 0x00000847 { given [(1, 4)] [(0, [0, 0, 0, 0, 0, 5, 4, 1, 2, 0xA, 0x11, 0xB3, 0x50])] [] []
      with dir := false }) 0 [(.buf 8, 4)] = true := by decide

-- V-D18
theorem test_setBc_V_D18 :
    shows (after 0x00000847 { given [(1, 2)] [(0, [0, 0, 0, 0, 0, 6, 4, 1, 0, 0xA, 0, 0xD, 0xDD, 0x98])] [] []
      with dir := true }) 4 [] = true := by decide

-- V-D20
theorem test_setEc_V_D20 :
    shows (after 0x00000848 { given [(1, 0xFF)] [(0, [0, 1, 0, 0, 0, 3, 0xA, 0x83, 2, 0xB1, 0x33])] [] [] with
      dir := false }) 0 [(.buf 8, 0xFF)] = true := by decide

-- V-D21
theorem test_setEc_V_D21 :
    shows (after 0x00000848 { given [(1, 2)] [(0, [0, 0, 0, 0, 0, 6, 4, 1, 0, 0xA, 0, 0xD, 0xDD, 0x98])] [] []
      with dir := true }) 4 [] = true := by decide

-- V-D23
theorem test_setIsexc_V_D23 :
    shows (after 0x00000849 { given [(1, 0)] [(0, [0, 1, 0, 0, 0, 3, 0xA, 0x83, 2, 0xB1, 0x33])] [] [] with dir
      := false }) 0 [(.buf 7, 3)] = true := by decide

-- V-D24
theorem test_setIsexc_V_D24 :
    shows (after 0x00000849 { given [(1, 2)] [(0, [0, 0, 0, 0, 0, 6, 4, 1, 0, 0xA, 0, 0xD, 0xDD, 0x98])] [] []
      with dir := true }) 3 [(.buf 7, 1)] = true := by decide

-- V-D25
theorem test_setIsreq_V_D25 :
    shows (after 0x0000084A { given [(1, 0)] [(0, [0, 0, 0, 0, 0, 6, 4, 1, 0, 0xA, 0, 0xD, 0xDD, 0x98])] [] []
      with dir := true }) 0 [(.dir, 0)] = true := by decide

-- V-D26
theorem test_setIsreq_V_D26 :
    shows (after 0x0000084A { given [(1, 2)] [(0, [0, 0, 0, 0, 0, 6, 4, 1, 0, 0xA, 0, 0xD, 0xDD, 0x98])] [] []
      with dir := true }) 3 [(.dir, 1)] = true := by decide

-- V-E1
theorem test_getv_V_E1 :
    shows (after 0x00000050 { given [] [(0, [0, 0, 0, 0, 0, 5, 4, 1, 2, 0xA, 0x11, 0xB3, 0x50])] [(0, [0x7777,
      0x7777, 0x7777, 0x7777, 0x7777, 0x7777, 0x7777, 0x7777, 0x7777, 0x7777, 0x7777, 0x7777, 0x7777, 0x7777,
      0x7777, 0x7777, 0x7777, 0x7777, 0x7777, 0x7777])] [] with dir := false }) 0 [(.x 0, 0x10), (.w 16, 0x7777),
      (.w 0, 0), (.w 1, 0xFF00), (.w 2, 0), (.w 3, 0xFF00), (.w 4, 0), (.w 5, 0), (.w 6, 0), (.w 7, 0),
      (.w 8, 0xFF00), (.w 9, 0), (.w 10, 0), (.w 11, 0), (.w 12, 0xFF00), (.w 13, 0), (.w 14, 0), (.w 15, 0)] =
      true := by decide

-- V-E7
theorem test_getv_V_E7 :
    shows (after 0x00000050 { given [] [(0, [0, 0, 0, 0, 0, 6, 4, 1, 0, 0xA, 0, 0xD, 0xDD, 0x98])] [] [] with
      dir := true }) 4 [] = true := by decide

-- V-E12
theorem test_putv_V_E12 :
    shows (after 0x00000851 { given [(1, 3)] [(0, [0, 0, 0, 0, 0, 7, 1, 4, 4, 0, 6, 0, 5, 0xDB, 0x86])]
      [(0, [0x1234, 0x5678, 0x9ABC])] [] with dir := false }) 0 [(.buf 13, 0xDB), (.buf 9, 0x12), (.buf 10, 0x34),
      (.buf 11, 0x56), (.buf 12, 0x78)] = true := by decide

-- V-E16
theorem test_putv_V_E16 :
    shows (after 0x00000851 { given [(1, 0x801)] [(0, [0, 0, 0, 0, 0, 7, 1, 4, 4, 0, 6, 0, 5, 0xDB, 0x86])] []
      [] with dir := false }) 2 [] = true := by decide

-- the frame table of section 1, row F16
theorem test_getVoff_F16VOFF :
    shows (after 0x00000052 { given [(0, 0x4D)] [(0, [0, 0, 0, 0, 0, 6, 1, 3, 3, 0x11, 0x22, 0x33])] [] [] with
      dir := false }) 0 [(.x 0, 9)] = true := by decide

-- the frame table of section 1, row F1
theorem test_getVoff_F1VOFF :
    shows (after 0x00000052 { given [(0, 0x4D)] [(0, [0, 0, 0, 0, 0, 6, 4, 1, 0, 0xA, 0, 0xD, 0xDD, 0x98])] []
      [] with dir := true }) 4 [(.x 0, 0x4D), (.data, 0)] = true := by decide

-- V-F5
theorem test_crcInit_V_F5 :
    shows (after 0x00000058 { given [] [] [] [] with crc := 0x98DD }) 0 [(.crc, 0xFFFF)] = true := by decide

-- V-F2
theorem test_crcUpd_V_F2 :
    shows (after 0x00000859 { given [(1, 4)] [] [] [] with crc := 0xFFFF }) 0 [(.crc, 0x83BE)] = true := by decide

-- V-F3
theorem test_crcUpd_V_F3 :
    shows (after 0x00000859 { given [(1, 0xABCDEF04)] [] [] [] with crc := 0xFFFF }) 0 [(.crc, 0x83BE)] = true := by decide

-- V-F4
theorem test_crcRd_V_F4 :
    shows (after 0x0000055A { given [] [] [] [] with crc := 0x98DD }) 0 [(.x 5, 0x98DD)] = true := by decide

-- V-F7
theorem test_crcBuf_V_F7 :
    shows (after 0x0000885B { given [(1, 0x12C), (2, 0)] [] [] [] with crc := 0x1234 }) 0 [(.x 0, 0xFFFF),
      (.crc, 0xFFFF)] = true := by decide

-- V-F8
theorem test_crcBuf_V_F8 :
    shows (after 0x0000885B { given [(1, 0x12B), (2, 2)] [] [] [] with crc := 0x1234 }) 2 [(.x 0, 0),
      (.crc, 0x1234)] = true := by decide

-- V-F10
theorem test_crcCalc_V_F10 :
    shows (after 0x0000005C { given [] [(6, [4, 1, 0, 0xA, 0, 0xD, 0, 0])] [] [] with dir := true }) 0
      [(.x 0, 0x98DD), (.crc, 0x98DD)] = true := by decide

-- V-F14
theorem test_crcCalc_V_F14 :
    shows (after 0x0000005C { given [] [(0, [0, 0, 0, 0, 0, 4, 1, 0x2B, 0xE, 1])] [] [] with dir := true }) 4 []
      = true := by decide

-- V-F11
theorem test_crcStored_V_F11 :
    shows (after 0x0000005D { given [] [(6, [4, 1, 0, 0xA, 0, 0xD, 0, 0])] [] [] with dir := true }) 0
      [(.x 0, 0), (.crc, 0xFFFF)] = true := by decide

-- V-F13
theorem test_crcStored_V_F13 :
    shows (after 0x0000005D { given [] [(0, [0, 0, 0, 0, 0, 6, 4, 1, 0, 0xA, 0, 0xD, 0xDD, 0x98])] [] [] with
      dir := true }) 0 [(.x 0, 0x98DD)] = true := by decide

-- V-F16
theorem test_crcAppend_V_F16 :
    shows (after 0x0000005E { given [] [(6, [0xA, 0x83, 2, 0, 0])] [] [] with dir := false }) 0 [(.crc, 0x33B1),
      (.buf 9, 0xB1), (.buf 10, 0x33)] = true := by decide

-- V-F15
theorem test_crcAppend_V_F15 :
    shows (after 0x0000005E { given [] [(0, [0, 0, 0, 0, 0, 4, 1, 0x2B, 0xE, 1])] [] [] with dir := true }) 4 []
      = true := by decide

-- V-F17
theorem test_lrcInit_V_F17 :
    shows (after 0x00000060 (given [] [] [] [])) 5 [] = true := by decide

-- 45_checksum.md R211
theorem test_lrcInit_R211 :
    shows (after 0x00000060 { given [] [] [] [] with cfg := lrcConfig, lrc := 0x55 }) 0 [(.lrc, 0)] = true := by decide

-- V-F19
theorem test_lrcUpd_V_F19 :
    shows (after 0x00000861 { given [(1, 0x102)] [] [] [] with cfg := lrcConfig, lrc := 0xFF }) 0 [(.lrc, 1)] =
      true := by decide

-- V-F20
theorem test_lrcRd_V_F20 :
    shows (after 0x00000062 { given [] [] [] [] with cfg := lrcConfig, lrc := 0 }) 0 [(.x 0, 0)] = true := by decide

-- V-F18
theorem test_lrcBuf_V_F18 :
    shows (after 0x00008863 { given [(1, 6), (2, 6)] [(6, [0x11, 3, 0, 0x6B, 0, 3])] [] [] with cfg := lrcConfig
      }) 0 [(.x 0, 0x7E), (.lrc, 0x82)] = true := by decide

-- V-F21
theorem test_lrcBuf_V_F21 :
    shows (after 0x00008863 { given [(1, 0x12A), (2, 3)] [] [] [] with cfg := lrcConfig }) 2 [] = true := by decide

-- V-G1
theorem test_calcRtulen_V_G1 :
    shows (after 0x00048868 (given [(1, 0xF), (2, 2)] [] [] [])) 0 [(.x 0, 0xB)] = true := by decide

-- V-G2
theorem test_calcRtulen_V_G2 :
    shows (after 0x00008868 (given [(1, 0xF), (2, 2)] [] [] [])) 0 [(.x 0, 8)] = true := by decide

-- V-G6
theorem test_expRlen_V_G6 :
    shows (after 0x00000069 { given [] [(6, [1, 2, 0, 0, 0, 9, 0xB8, 0xC])] [] [] with dir := true }) 0
      [(.x 0, 0x17)] = true := by decide

-- V-G8
theorem test_expRlen_V_G8 :
    shows (after 0x00000069 { given [] [(0, [0, 3, 0, 0, 0, 6, 0x11, 0xF, 0, 0x13, 0, 0xA, 0x26, 0x99])] [] []
      with dir := false }) 3 [(.x 0, 0)] = true := by decide

-- V-G10
theorem test_txtime_V_G10 :
    shows (after 0x0000886A (given [(1, 0x108), (2, 0x1C200)] [] [] [])) 0 [(.x 0, 0x17)] = true := by decide

-- V-G12
theorem test_txtime_V_G12 :
    shows (after 0x0000886A (given [(1, 0x20003), (2, 0x2580)] [] [] [])) 3 [] = true := by decide

/-- 90_conflicts.md C1: length 8 at 9600 is 9 by the ceiling and 8 by rounding to nearest. -/
theorem test_txtimeRounding_C1 :
    shows (after 0x0000886A (given [(1, 8), (2, 9600)] [] [] [])) 0 [(.x 0, 9)] = true ∧
      shows (after 0x0000886A { given [(1, 8), (2, 9600)] [] [] [] with cfg := nearestConfig }) 0 [(.x 0, 8)] = true := by
  decide

-- 47_build_validate.md R231, the table
theorem test_build_R231_row :
    shows (after 0x00040070 (given [(1, 0x11), (2, 0x10), (3, 1), (4, 2), (5, 4)] [] [(0, [0xA, 0x102])] [])) 0
      [(.buf 0, 0), (.buf 1, 4), (.buf 2, 0), (.buf 3, 0), (.buf 4, 0), (.buf 5, 0xB), (.buf 6, 0x11),
      (.buf 7, 0x10), (.buf 8, 0), (.buf 9, 1), (.buf 10, 0), (.buf 11, 2), (.buf 12, 4), (.buf 13, 0),
      (.buf 14, 0xA), (.buf 15, 1), (.buf 16, 2), (.buf 17, 0xC6), (.buf 18, 0xF0), (.dir, 1)] = true := by decide

-- V-H5
theorem test_build_V_H5 :
    shows (after 0x00040070 { given [(1, 1), (2, 0x2B)] [(7, [0x55])] [] [] with crc := 0x1234, dir := true }) 3
      [(.dir, 1), (.crc, 0x1234), (.buf 7, 0x55)] = true := by decide

-- V-F1
theorem test_buildExc_V_F1 :
    shows (after 0x00000071 (given [(1, 0xA), (2, 3), (3, 2), (5, 1)] [] [] [])) 0 [(.dir, 0), (.crc, 0x33B1),
      (.buf 0, 0), (.buf 1, 1), (.buf 2, 0), (.buf 3, 0), (.buf 4, 0), (.buf 5, 3), (.buf 6, 0xA), (.buf 7, 0x83),
      (.buf 8, 2), (.buf 9, 0xB1), (.buf 10, 0x33)] = true := by decide

-- V-H2
theorem test_buildExc_V_H2 :
    shows (after 0x00000071 (given [(1, 1), (2, 0), (3, 1), (5, 0)] [] [] [])) 0 [(.buf 6, 1), (.buf 7, 0x80),
      (.buf 8, 1), (.buf 9, 0x80), (.buf 10, 0)] = true := by decide

-- V-H9
theorem test_valRtu_V_H9 :
    shows (after 0x00000772 { given [] [(0, [0, 0, 0, 0, 0, 6, 4, 1, 0, 0xA, 0, 0xD, 0xDD, 0x99])] [] [] with
      dir := true }) 0 [(.x 7, 3), (.crc, 0x98DD), (.ferr, 0)] = true := by decide

-- V-H10
theorem test_valRtu_V_H10 :
    shows (after 0x00000772 { given [] [(0, [0, 0, 0, 0, 0, 4, 1, 0x2B, 0xE, 1])] [] [] with crc := 0xFFFF, dir
      := true }) 0 [(.x 7, 6), (.crc, 0xFFFF)] = true := by decide

-- V-H13
theorem test_valTcp_V_H13 :
    shows (after 0x00000773 (given [] [(2, [0, 1])] [] [])) 0 [(.x 7, 1)] = true := by decide

-- V-H14
theorem test_valTcp_V_H14 :
    shows (after 0x00000773 (given [] [(4, [0xFF, 0xFF]), (7, [3])] [] [])) 0 [(.x 7, 0)] = true := by decide

/-! ### Decoding: a word of every constructor, bit by bit from the encodings of the spec -/

/-- Words written from the encodings of spec/40_system.md. -/
theorem test_decode_system :
    decode 0b000000000000_0_0_0_000_000_000_00000000 = some .nop ∧
    decode 0b1010010111000011_00000_111_00000001 = some (.ldi 7 0xa5c3) ∧
    decode 0b1000000000000001_00000_010_00000010 = some (.ldih 2 0x8001) ∧
    decode 0b000000000000_0_0_0_000_110_101_00000011 = some (.mov 5 6) ∧
    decode 0b000000000000_0_0_0_000_000_000_00000100 = some .clrf ∧
    decode 0b000000000000_0_0_0_000_000_000_00000101 = some .reset ∧
    decode 0b000000000000_0_0_0_000_000_110_00000110 = some (.rderr 6) := by decide

/-- Words written from the encodings of spec/41_load_store.md. -/
theorem test_decode_load_store :
    decode 0b000000000000_0_0_0_000_010_001_00010000 = some (.ldb 1 2) ∧
    decode 0b000000000000_0_0_0_010_111_000_00010001 = some (.stb 7 2) ∧
    decode 0b000000000000_0_0_0_000_100_111_00010010 = some (.ldw 7 4) ∧
    decode 0b000000000000_0_0_0_000_001_000_00010011 = some (.stw 1 0) ∧
    decode 0b000000000000_0_0_0_000_110_101_00010100 = some (.ldo 5 6) ∧
    decode 0b000000000000_0_0_0_110_011_000_00010101 = some (.sto 3 6) := by decide

/-- Words written from the encodings of spec/42_packer.md. -/
theorem test_decode_packer :
    decode 0b000000000000_0_0_1_101_000_011_00100000 = some (.unpkU8 3 0 5 .lsb) ∧
    decode 0b000000000000_0_0_0_100_101_110_00100001 = some (.unpkU16 6 5 4) ∧
    decode 0b000000000000_0_0_0_011_010_001_00100010 = some (.unpkU32 1 2 3) ∧
    decode 0b000000000000_0_0_0_010_111_100_00100011 = some (.unpkF32 4 7 2) ∧
    decode 0b000000000000_0_0_0_001_100_111_00100100 = some (.unpkStr 7 4 1) ∧
    decode 0b000000000000_0_0_0_000_001_010_00100101 = some (.unpkOct 2 1 0) ∧
    decode 0b000000000000_0_0_0_111_110_101_00101000 = some (.packU8 5 6 7 .msb) ∧
    decode 0b000000000000_0_0_0_110_011_000_00101001 = some (.packU16 0 3 6) ∧
    decode 0b000000000000_0_0_0_101_000_011_00101010 = some (.packU32 3 0 5) ∧
    decode 0b000000000000_0_0_0_100_101_110_00101011 = some (.packF32 6 5 4) ∧
    decode 0b000000000000_0_0_0_011_010_001_00101100 = some (.packStr 1 2 3) ∧
    decode 0b000000000000_0_0_0_010_111_100_00101101 = some (.packOct 4 7 2) := by decide

/-- Words written from the encodings of spec/43_frame_fields.md. -/
theorem test_decode_frame_fields :
    decode 0b000000000000_0_0_0_000_000_111_00110000 = some (.getTid 7) ∧
    decode 0b000000000000_0_0_0_000_000_010_00110001 = some (.getPid 2) ∧
    decode 0b000000000000_0_0_0_000_000_101_00110010 = some (.getMlen 5) ∧
    decode 0b000000000000_0_0_0_000_000_000_00110011 = some (.getSid 0) ∧
    decode 0b000000000000_0_0_0_000_000_011_00110100 = some (.getFc 3) ∧
    decode 0b000000000000_0_0_0_000_000_110_00110101 = some (.getSa 6) ∧
    decode 0b000000000000_0_0_0_000_000_001_00110110 = some (.getRc 1) ∧
    decode 0b000000000000_0_0_0_000_000_100_00110111 = some (.getBc 4) ∧
    decode 0b000000000000_0_0_0_000_000_111_00111000 = some (.getEc 7) ∧
    decode 0b000000000000_0_0_0_000_000_010_00111001 = some (.getIsexc 2) ∧
    decode 0b000000000000_0_0_0_000_000_101_00111010 = some (.getIsreq 5) ∧
    decode 0b000000000000_0_0_0_000_000_000_00111011 = some (.getHassa 0) ∧
    decode 0b000000000000_0_0_0_000_000_011_00111100 = some (.getHasrv 3) ∧
    decode 0b000000000000_0_0_0_000_000_110_00111101 = some (.getRtulen 6) ∧
    decode 0b000000000000_0_0_0_000_000_001_00111110 = some (.getPdulen 1) ∧
    decode 0b000000000000_0_0_0_000_000_100_00111111 = some (.getTcplen 4) ∧
    decode 0b000000000000_0_0_0_000_100_000_01000000 = some (.setTid 4) ∧
    decode 0b000000000000_0_0_0_000_001_000_01000001 = some (.setPid 1) ∧
    decode 0b000000000000_0_0_0_000_110_000_01000010 = some (.setMlen 6) ∧
    decode 0b000000000000_0_0_0_000_011_000_01000011 = some (.setSid 3) ∧
    decode 0b000000000000_0_0_0_000_000_000_01000100 = some (.setFc 0) ∧
    decode 0b000000000000_0_0_0_000_101_000_01000101 = some (.setSa 5) ∧
    decode 0b000000000000_0_0_0_000_010_000_01000110 = some (.setRc 2) ∧
    decode 0b000000000000_0_0_0_000_111_000_01000111 = some (.setBc 7) ∧
    decode 0b000000000000_0_0_0_000_100_000_01001000 = some (.setEc 4) ∧
    decode 0b000000000000_0_0_0_000_001_000_01001001 = some (.setIsexc 1) ∧
    decode 0b000000000000_0_0_0_000_110_000_01001010 = some (.setIsreq 6) := by decide

/-- Words written from the encodings of spec/44_frame_values.md. -/
theorem test_decode_frame_values :
    decode 0b000000000000_0_0_0_000_000_000_01010000 = some (.getv 0) ∧
    decode 0b000000000000_0_0_0_000_000_000_01010001 = some (.putv 0) ∧
    decode 0b000000000000_0_0_0_000_000_110_01010010 = some (.getVoff 6) := by decide

/-- Words written from the encodings of spec/45_checksum.md. -/
theorem test_decode_checksum :
    decode 0b000000000000_0_0_0_000_000_000_01011000 = some .crcInit ∧
    decode 0b000000000000_0_0_0_000_111_000_01011001 = some (.crcUpd 7) ∧
    decode 0b000000000000_0_0_0_000_000_111_01011010 = some (.crcRd 7) ∧
    decode 0b000000000000_0_0_0_000_001_010_01011011 = some (.crcBuf 2 1 0) ∧
    decode 0b000000000000_0_0_0_000_000_101_01011100 = some (.crcCalc 5) ∧
    decode 0b000000000000_0_0_0_000_000_000_01011101 = some (.crcStored 0) ∧
    decode 0b000000000000_0_0_0_000_000_000_01011110 = some .crcAppend ∧
    decode 0b000000000000_0_0_0_000_000_000_01100000 = some .lrcInit ∧
    decode 0b000000000000_0_0_0_000_010_000_01100001 = some (.lrcUpd 2) ∧
    decode 0b000000000000_0_0_0_000_000_100_01100010 = some (.lrcRd 4) ∧
    decode 0b000000000000_0_0_0_001_100_111_01100011 = some (.lrcBuf 7 4 1) := by decide

/-- Words written from the encodings of spec/46_length_time.md. -/
theorem test_decode_length_time :
    decode 0b000000000000_1_0_0_000_001_010_01101000 = some (.calcRtulen 2 1 0 false true) ∧
    decode 0b000000000000_0_0_0_000_000_101_01101001 = some (.expRlen 5) ∧
    decode 0b000000000000_0_0_0_110_011_000_01101010 = some (.txtime 0 3 6) := by decide

/-- Words written from the encodings of spec/47_build_validate.md. -/
theorem test_decode_build_validate :
    decode 0b000000000000_0_1_0_000_000_000_01110000 = some (.build true) ∧
    decode 0b000000000000_0_0_0_000_000_000_01110001 = some .buildExc ∧
    decode 0b000000000000_0_0_0_000_000_001_01110010 = some (.valRtu 1) ∧
    decode 0b000000000000_0_0_0_000_000_100_01110011 = some (.valTcp 4) := by decide

/-! ### Well-formedness (R83, R85) -/

theorem test_wellFormed_refuses_lrcInit : WellFormed Config.default .lrcInit = false := by decide
theorem test_wellFormed_refuses_lrcUpd : WellFormed Config.default (.lrcUpd 1) = false := by decide
theorem test_wellFormed_refuses_lrcRd : WellFormed Config.default (.lrcRd 1) = false := by decide
theorem test_wellFormed_refuses_lrcBuf : WellFormed Config.default (.lrcBuf 1 2 3) = false := by decide
theorem test_wellFormed_accepts_lrcBuf : WellFormed lrcConfig (.lrcBuf 1 2 3) = true := by decide
theorem test_wellFormed_accepts_valTcp : WellFormed Config.default (.valTcp 1) = true := by decide

/-! ### The step -/

/-- R92: LDI x1, 0x11, as the table numbers its bits. -/
theorem test_decodeTableWord : decodeTableWord 32 0x00110101 = some (.ldi 1 0x11) := by decide

/-- R85, R86, R84: an opcode outside the map, ORD = 1 on UNPK.U16, a nonzero unused rs1 of CRC.RD. -/
theorem test_decode_reserved :
    decode 0xFF = none ∧ decode 0x20021 = none ∧ decode 0x85A = none ∧ decode 0x80000001 ≠ none := by decide

theorem test_withFetchWord_runs :
    step (State.reset.withFetchWord 32 0x00110101) = exec (.ldi 1 0x11) State.reset := by rfl

/-- R295: after the last command the run has ended. -/
theorem test_endOfRun : step State.reset = .fault .endOfRun := by rfl

/-! ### Tables of the spec -/

/-- 20_memory.md R60: class and bit function of each named function. -/
theorem test_functionCodes :
    [FunctionCode.readCoils, .readDiscreteInputs, .readHoldingRegisters, .readInputRegisters].map
        (fun f => (fcClass f.value, bitFn f.value)) = [(.br, true), (.br, true), (.br, false), (.br, false)] ∧
      [FunctionCode.writeSingleCoil, .writeSingleRegister, .writeMultipleCoils, .writeMultipleRegisters].map
        (fun f => (fcClass f.value, bitFn f.value)) = [(.sw, false), (.sw, false), (.mw, true), (.mw, false)] ∧
      [FunctionCode.diagnostics, .maskWriteRegister, .readWriteMultipleRegisters, .readDeviceIdentification].map
        (fun f => fcClass f.value) = [.ot, .ot, .ot, .ot] := by decide

/-- 47_build_validate.md R233: the RTU and TCP images (R63) of the exception frame of V-F1. -/
theorem test_images :
    (after 0x71 (given [(1, 0x0A), (2, 3), (3, 2), (5, 1)] [] [] [])).rtuFrame = [0x0A, 0x83, 0x02, 0xB1, 0x33] ∧
      (after 0x71 (given [(1, 0x0A), (2, 3), (3, ExceptionCode.illegalDataAddress.value.toNat), (5, 1)] [] [] [])).tcpFrame =
        [0x00, 0x01, 0x00, 0x00, 0x00, 0x03, 0x0A, 0x83, 0x02] := by decide

/-- R167: a stored MBAP length beyond BUF: GET.TCPLEN gives 65541, and the image goes no further than BUF[299] (log 11). -/
theorem test_tcpImage_beyond_buf :
    shows (after 0x3F (given [] [(4, [0xFF, 0xFF])] [] [])) 0 [(.data, 65541)] = true ∧
      (given [] [(4, [0xFF, 0xFF])] [] []).tcpFrame.length = 300 := by
  rw [State.tcpFrame, Memory.readRange, List.length_map, List.length_range]
  decide

/-- 70_reset_and_hazards.md R282: after reset VAL.RTU gives 5, VAL.TCP 2, GET.RTULEN 0, GET.SID 0, GET.FC 0; GET.SA,
GET.RC, GET.BC, GET.EC and GETV raise FieldAbsent (4). -/
theorem test_afterReset :
    shows (after 0x72 State.reset) 0 [(.data, 5)] ∧ shows (after 0x73 State.reset) 0 [(.data, 2)] ∧
      (∀ w ∈ [0x3D, 0x33, 0x34], shows (after w State.reset) 0 [(.data, 0)]) ∧
      ∀ w ∈ [0x35, 0x36, 0x37, 0x38, 0x50], shows (after w State.reset) 4 [(.data, 0)] := by decide

/-! ### Witnesses: states and operands that meet the hypotheses of each statement -/

theorem inv_of {s : State} (h : s.cfg.Admitted ∧ Memory.wf bufCap s.buf ∧ Memory.wf s.cfg.nw s.w ∧
    Memory.wf s.cfg.no s.oct ∧ s.status.toNat ≤ 5 ∧ s.ferr.toNat ≤ 5 ∧ (s.cfg.hasLrc = false → s.lrc = 0)) :
    s.Inv := ⟨h.1, h.2.1, h.2.2.1, h.2.2.2.1, h.2.2.2.2.1, h.2.2.2.2.2.1, h.2.2.2.2.2.2⟩

/-- A frame of each kind: the direction, the function-code byte, and the byte counts of both kinds that store one. -/
def frame (dir : Bool) (b7 : Nat) (xs : List (Reg × Nat)) : State :=
  { given xs [(7, [b7, 3]), (12, [2])] [] [] with dir := dir }

/-- The commands of the list are pending. -/
def issuing (l : List Word) : State := { State.reset with pending := l }

theorem witness_LegalWordIsItsCommandsOnlyWord : decode 0x00110101 = some (.ldi 1 0x11) := by decide

theorem witness_LegalWordsAreTheOpcodeMap :
    ⟨0xFFFFFFFF, 0⟩ ∈ opcodeMap ∧ OpcodeRow.Selects ⟨0xFFFFFFFF, 0⟩ 0 ∧
      ∀ r ∈ opcodeMap, ¬ r.Selects 0xFFFFFFFF := by decide

theorem witness_OrdTagReservedOffTheU8Commands :
    (0x20021 : Word).getLsbD 17 = true ∧ opcodeOf 0x20021 ≠ 0x20 ∧ opcodeOf 0x20021 ≠ 0x28 ∧
      opcodeOf 0x20021 ≠ 0x01 ∧ opcodeOf 0x20021 ≠ 0x02 := by decide

theorem witness_StepRunsTheDecodedCommand :
    (issuing [0x00110101, 0]).pending = 0x00110101 :: [0] ∧ decode 0x00110101 = some (.ldi 1 0x11) := by decide

theorem witness_ReservedEncodingIsRefused :
    ((issuing [0xFF]).pending = 0xFF :: [] ∧ decode 0xFF = none) ∧
      (Instr.lrcInit.isLrc = true ∧ State.reset.cfg.hasLrc = false) := by decide

theorem witness_EveryCommandWordGetsOneResponse : (issuing [0xFF]).pending ≠ [] := by decide

theorem witness_RunEndsWhenNoCommandIsPending : State.reset.pending = [] := by decide

theorem witness_InvariantHoldsAtReset :
    Config.Admitted { nw := 2040, no := 2 } ∧ Config.Admitted { nw := 2040, no := 2 ^ 32 - 2, hasLrc := true } :=
  by decide

theorem witness_StepKeepsTheInvariant :
    (issuing [0x00110101]).Inv ∧ ∃ t, step (issuing [0x00110101]) = .next t :=
  ⟨inv_of (by decide), _, rfl⟩

theorem witness_FailureIsPrecise :
    (∃ t, exec (.ldb 0 1) (given [(1, 300)] [] [] []) = .next t ∧ t.status ≠ 0) ∧
      (issuing [0xFF]).pending = 0xFF :: [] ∧ ∃ t, step (issuing [0xFF]) = .next t ∧ t.status ≠ 0 :=
  ⟨⟨_, rfl, by decide⟩, rfl, _, rfl, by decide⟩

/-- The first clause for a word that is no command and for a command; the last for NOP. -/
theorem witness_FerrRecordsTheFirstFailure :
    ((issuing [0xFF]).pending = 0xFF :: [] ∧ decode 0xFF ≠ some .clrf ∧ decode 0xFF ≠ some .reset ∧
      ∃ t, step (issuing [0xFF]) = .next t) ∧
      ((issuing [0]).pending = 0 :: [] ∧ decode 0 ≠ some .clrf ∧ decode 0 ≠ some .reset ∧
        ∃ t, step (issuing [0]) = .next t) ∧
      (∃ t, exec .clrf State.reset = .next t) ∧ (∃ t, exec .reset State.reset = .next t) ∧
      (∀ rd, Instr.nop ≠ .rderr rd) ∧ ∃ t, exec .nop State.reset = .next t :=
  ⟨⟨rfl, by decide, by decide, _, rfl⟩, ⟨rfl, by decide, by decide, _, rfl⟩, ⟨_, rfl⟩, ⟨_, rfl⟩, by decide, _, rfl⟩

/-- A reserved word, a command without a destination, and one with a destination. -/
theorem witness_ResponseCarriesTheWrittenValue :
    (issuing [0xFF]).pending = 0xFF :: [] ∧ (issuing [0]).pending = 0 :: [] ∧
      (issuing [0x00110101]).pending = 0x00110101 :: [] ∧ (decode 0x00110101).bind dest = some 1 := by decide

theorem witness_OnlyTheDestinationRegisterIsWritten :
    Instr.ldi 1 7 ≠ .reset ∧ (∃ t, exec (.ldi 1 7) State.reset = .next t) ∧ dest (.ldi 1 7) ≠ some 2 :=
  ⟨by decide, ⟨_, rfl⟩, by decide⟩

theorem witness_StatusesAreThoseOfTheTable :
    (∃ t, exec (.ldb 0 1) (given [(1, 300)] [] [] []) = .next t ∧ t.status ≠ 0) ∧
      ∃ t, exec (.ldb 0 1) (given [(1, 299)] [] [] []) = .next t ∧ t.status = 0 :=
  ⟨⟨_, rfl, by decide⟩, _, rfl, by decide⟩

/-- NOP is in none of the exceptions of the two statements. -/
theorem witness_OnlyTheseCommandsWrite :
    Instr.nop ≠ .reset ∧ (∃ t, exec .nop State.reset = .next t) ∧ (∀ r, Instr.nop ≠ .setIsreq r) ∧
      (∀ q, Instr.nop ≠ .build q) ∧ (∀ d a n, Instr.nop ≠ .crcBuf d a n) ∧ (∀ r, Instr.nop ≠ .lrcUpd r) ∧
      (∀ a, Instr.nop ∉ [Instr.setTid a, .setPid a, .putv a]) ∧
      (∀ v a b, Instr.nop ∉ [Instr.packU16 v a b, .packOct v a b]) ∧ ∀ a b, Instr.nop ≠ .sto a b :=
  ⟨by decide, ⟨_, rfl⟩, by decide, by decide, by decide, by decide, by decide, by decide, by decide⟩

theorem witness_NoFrameCommandTouchesBufAbove269 :
    (given [(2, 16)] [(270, [1]), (299, [2])] [] []).Inv ∧ (∀ a b, Instr.build true ≠ .stb a b) ∧
      ∃ t, exec (.build true) (given [(2, 16)] [(270, [1]), (299, [2])] [] []) = .next t ∧ t.status = 0 :=
  ⟨inv_of (by decide), by decide, _, rfl, by decide⟩

/-- The last index of each space, and the first outside it. -/
theorem witness_LoadsAndStoresAtTheBounds :
    (given [(1, 299), (2, 2047), (3, 255)] [] [] []).Inv ∧
      (given [(1, 299)] [] [] []).num 1 < 300 ∧ ¬ (given [(1, 300)] [] [] []).num 1 < 300 ∧
      (given [(1, 2047)] [] [] []).num 1 < State.reset.cfg.nw ∧
      ¬ (given [(1, 2048)] [] [] []).num 1 < State.reset.cfg.nw ∧
      (given [(1, 255)] [] [] []).num 1 < State.reset.cfg.no ∧
      ¬ (given [(1, 256)] [] [] []).num 1 < State.reset.cfg.no :=
  ⟨inv_of (by decide), by decide⟩

/-- A slice one word past W; spans 0 and 1; a span of 129 words; lengths 257, and 5 for two words. -/
theorem witness_PackerChecksInOrder :
    State.reset.cfg.nw < (given [(1, 2047), (2, 2)] [] [] []).num 1 + (given [(1, 2047), (2, 2)] [] [] []).num 2 ∧
      2048 + 0 ≤ State.reset.cfg.nw ∧ (0 < 1 ∧ 1 < 2) ∧ State.reset.cfg.no < 2 * 129 ∧
      State.reset.cfg.no < 257 ∧ (5 ≤ State.reset.cfg.no ∧ 2 * 2 < 5) := by decide

/-- The last word of W for the one-word types, the last two for the two-word types. -/
theorem witness_PackerScalars :
    (given [(1, 2047), (2, 1)] [] [] []).Inv ∧
      (given [(1, 2047), (2, 1)] [] [] []).num 1 + (given [(1, 2047), (2, 1)] [] [] []).num 2 ≤ State.reset.cfg.nw ∧
      1 ≤ (given [(1, 2047), (2, 1)] [] [] []).num 2 ∧
      (given [(1, 2046), (2, 2)] [] [] []).num 1 + (given [(1, 2046), (2, 2)] [] [] []).num 2 ≤ State.reset.cfg.nw ∧
      2 ≤ (given [(1, 2046), (2, 2)] [] [] []).num 2 :=
  ⟨inv_of (by decide), by decide⟩

/-- UNPK.STR and UNPK.OCT with the longest span, and with none. -/
theorem witness_UnpackStringAndOctets :
    State.reset.Inv ∧ 1920 + 128 ≤ State.reset.cfg.nw ∧ 2 * 128 ≤ State.reset.cfg.no ∧
      2048 + 0 ≤ State.reset.cfg.nw := ⟨inv_of (by decide), by decide⟩

/-- PACK.STR and PACK.OCT of five octets into three words, and of none into an empty span at the end of W. -/
theorem witness_PackStringAndOctetsWriteTheSpan :
    (given [(1, 2045), (2, 3), (3, 5)] [] [] []).Inv ∧ 2045 + 3 ≤ State.reset.cfg.nw ∧
      5 ≤ State.reset.cfg.no ∧ 5 ≤ 2 * 3 ∧ 2048 + 0 ≤ State.reset.cfg.nw ∧ 0 ≤ 2 * 0 :=
  ⟨inv_of (by decide), by decide⟩

theorem witness_UnpackScalarReturnsWhatWasPacked :
    (given [(1, 2046), (2, 2), (3, 0x12345678)] [] [] []).Inv ∧
      (∃ t, exec (.packU8 3 1 2 .lsb) (given [(1, 2046), (2, 2), (3, 0x12345678)] [] [] []) = .next t ∧ t.status = 0) ∧
      (∃ t, exec (.packU16 3 1 2) (given [(1, 2046), (2, 2), (3, 0x12345678)] [] [] []) = .next t ∧ t.status = 0) ∧
      (∃ t, exec (.packU32 3 1 2) (given [(1, 2046), (2, 2), (3, 0x12345678)] [] [] []) = .next t ∧ t.status = 0) ∧
      ∃ t, exec (.packF32 3 1 2) (given [(1, 2046), (2, 2), (3, 0x12345678)] [] [] []) = .next t ∧ t.status = 0 :=
  ⟨inv_of (by decide), ⟨_, rfl, by decide⟩, ⟨_, rfl, by decide⟩, ⟨_, rfl, by decide⟩, _, rfl, by decide⟩

/-- The string "AB", a zero octet and two more octets into three words. -/
theorem witness_UnpackReturnsWhatWasPacked :
    (given [(1, 2045), (2, 3), (3, 5)] [] [] [(0, [65, 66, 0, 67, 68])]).Inv ∧ 2 * 3 ≤ State.reset.cfg.no ∧
      (∃ t, exec (.packStr 3 1 2) (given [(1, 2045), (2, 3), (3, 5)] [] [] [(0, [65, 66, 0, 67, 68])]) = .next t ∧
        t.status = 0) ∧
      ∃ t, exec (.packOct 3 1 2) (given [(1, 2045), (2, 3), (3, 5)] [] [] [(0, [65, 66, 0, 67, 68])]) = .next t ∧
        t.status = 0 :=
  ⟨inv_of (by decide), by decide, ⟨_, rfl, by decide⟩, _, rfl, by decide⟩

/-- Every row of the layout table (R59) is the kind of some state, at the boundary function codes. -/
theorem witness_kinds :
    (frame true 0x80 []).kind = .exception ∧ (frame false 0xFF []).kind = .exception ∧
      (frame true 1 []).kind = .readRequest ∧ (frame true 4 []).kind = .readRequest ∧
      (frame false 1 []).kind = .readResponse ∧ (frame false 4 []).kind = .readResponse ∧
      (frame true 5 []).kind = .singleWrite ∧ (frame false 6 []).kind = .singleWrite ∧
      (frame true 15 []).kind = .writeRequest ∧ (frame true 16 []).kind = .writeRequest ∧
      (frame false 15 []).kind = .writeResponse ∧ (frame false 16 []).kind = .writeResponse ∧
      (frame true 0 []).kind = .other ∧ (frame true 7 []).kind = .other ∧ (frame false 127 []).kind = .other := by
  decide

/-- The setters' values at the bounds of their fields, in states that meet the invariant. -/
theorem witness_SettersAtTheBounds :
    (frame true 16 [(1, 0xFFFF)]).Inv ∧ (frame true 16 [(1, 0xFFFF)]).num 1 ≤ 0xFFFF ∧
      ¬ (frame true 16 [(1, 0x10000)]).num 1 ≤ 0xFFFF ∧ (frame true 16 [(1, 0xFF)]).num 1 ≤ 0xFF ∧
      ¬ (frame true 16 [(1, 0x100)]).num 1 ≤ 0xFF ∧ (frame true 16 [(1, 0x7F)]).num 1 ≤ 0x7F ∧
      ¬ (frame true 16 [(1, 0x80)]).num 1 ≤ 0x7F ∧ (frame true 16 [(1, 1)]).num 1 ≤ 1 ∧
      ¬ (frame true 16 [(1, 2)]).num 1 ≤ 1 :=
  ⟨inv_of (by decide), by decide⟩

/-- GETV and PUTV: a frame without values, bit and word payloads, and counts at the bound of W. -/
theorem witness_ValuesCommands :
    (frame true 15 [(1, 2048)]).Inv ∧ (frame true 1 []).values = none ∧
      (frame false 1 []).values = some (9, 3) ∧ BitFunction ((frame false 1 []).byte 7) ∧
      (frame false 3 []).values = some (9, 3) ∧ ¬ BitFunction ((frame false 3 []).byte 7) ∧
      (frame true 6 []).values = some (10, 2) ∧ (frame true 15 []).values = some (13, 2) ∧
      (frame true 15 [(1, 2048)]).num 1 ≤ State.reset.cfg.nw ∧
      ¬ (frame true 15 [(1, 2049)]).num 1 ≤ State.reset.cfg.nw :=
  ⟨inv_of (by decide), by decide⟩

theorem witness_GetvReturnsWhatPutvPacked :
    (frame true 15 [(1, 9)]).Inv ∧ (∃ t, exec (.putv 1) (frame true 15 [(1, 9)]) = .next t ∧ t.status = 0) ∧
      ∃ t, exec (.putv 1) (frame true 16 [(1, 1)]) = .next t ∧ t.status = 0 :=
  ⟨inv_of (by decide), ⟨_, rfl, by decide⟩, _, rfl, by decide⟩

/-- CRC.BUF and LRC.BUF: the whole of BUF, and one byte too many. -/
theorem witness_BufRanges :
    (given [(1, 0), (2, 300)] [] [] []).num 1 + (given [(1, 0), (2, 300)] [] [] []).num 2 ≤ 300 ∧
      ¬ (given [(1, 1), (2, 300)] [] [] []).num 1 + (given [(1, 1), (2, 300)] [] [] []).num 2 ≤ 300 ∧
      (State.resetOf lrcConfig).cfg.hasLrc = true := by decide

theorem witness_FrameCrcCommands : (frame true 3 []).Inv ∧ (frame true 3 []).kind ≠ .other :=
  ⟨inv_of (by decide), by decide⟩

theorem witness_AppendedCrcValidates :
    (frame true 3 []).Inv ∧ (∃ t, exec .crcAppend (frame true 3 []) = .next t ∧ t.status = 0) ∧
      (frame true 3 []).byte 7 % 128 ≠ 0 :=
  ⟨inv_of (by decide), ⟨_, rfl, by decide⟩, by decide⟩

/-- CALC.RTULEN, EXP.RLEN and TXTIME: operands at both sides of each bound, and both roundings. -/
theorem witness_LengthAndTime :
    ((given [(1, 0x7F), (2, 0xFF)] [] [] []).num 1 ≤ 0x7F ∧ (given [(1, 0x7F), (2, 0xFF)] [] [] []).num 2 ≤ 0xFF) ∧
      ¬ (given [(1, 0x80)] [] [] []).num 1 ≤ 0x7F ∧ ¬ (given [(2, 0x100)] [] [] []).num 2 ≤ 0xFF ∧
      ((frame true 4 []).dir = true ∧ (frame true 4 []).byte 7 < 128) ∧ ¬ (frame true 0x80 []).byte 7 < 128 ∧
      (frame false 3 []).dir ≠ true ∧
      ((given [(1, 65535), (2, 1)] [] [] []).num 1 ≤ 65535 ∧ (given [(1, 65535), (2, 1)] [] [] []).num 2 ≠ 0) ∧
      ¬ (given [(1, 65536), (2, 1)] [] [] []).num 1 ≤ 65535 ∧ ¬ (given [(1, 1)] [] [] []).num 2 ≠ 0 ∧
      ((given [(1, 12), (2, 9600)] [] [] []).cfg.txtimeRounding = .ceil ∧
        ({ given [(1, 12), (2, 9600)] [] [] [] with cfg := nearestConfig } : State).cfg.txtimeRounding = .nearest) := by
  decide

/-- BUILD's operands at the bounds: 2040 coils and 127 registers fit a byte count, 2041 and 128 do not. -/
theorem witness_BuildAccepts :
    BuildAccepts true (given [(1, 0xFF), (2, 15), (3, 0xFFFF), (4, 2040), (5, 0xFFFF)] [] [] []) ∧
      BuildAccepts true (given [(2, 16), (4, 127)] [] [] []) ∧ BuildAccepts false (given [(2, 1), (4, 2040)] [] [] []) ∧
      BuildAccepts true (given [(2, 3), (4, 0xFFFF)] [] [] []) ∧
      BuildExcAccepts (given [(1, 0xFF), (2, 0x7F), (3, 0xFF), (5, 0xFFFF)] [] [] []) := by decide

theorem witness_BuildersRefuseBadOperands :
    ¬ BuildAccepts true (given [(2, 15), (4, 2041)] [] [] []) ∧
      ¬ BuildAccepts true (given [(2, 16), (4, 128)] [] [] []) ∧
      ¬ BuildAccepts true (given [(2, 7)] [] [] []) ∧ ¬ BuildAccepts true (given [(1, 0x100), (2, 3)] [] [] []) ∧
      ¬ BuildAccepts true (given [(2, 3), (3, 0x10000)] [] [] []) ∧
      ¬ BuildAccepts true (given [(2, 3), (5, 0x10000)] [] [] []) ∧
      ¬ BuildExcAccepts (given [(2, 0x80)] [] [] []) ∧ ¬ BuildExcAccepts (given [(3, 0x100)] [] [] []) := by decide

theorem witness_BuildWritesTheFrame :
    (given [(2, 16), (4, 127)] [] [] []).Inv ∧ BuildAccepts true (given [(2, 16), (4, 127)] [] [] []) :=
  ⟨inv_of (by decide), by decide⟩

theorem witness_BuildExcWritesTheFrame :
    (given [(2, 3), (3, 2)] [] [] []).Inv ∧ BuildExcAccepts (given [(2, 3), (3, 2)] [] [] []) :=
  ⟨inv_of (by decide), by decide⟩

/-- The hypotheses of the statements about a built frame, for BUILD and for BUILD.EXC. -/
theorem witness_BuiltFrame :
    (given [(1, 17), (2, 3), (3, 2), (4, 1)] [] [] []).Inv ∧
      (∃ t, exec (.build false) (given [(1, 17), (2, 3), (3, 2), (4, 1)] [] [] []) = .next t ∧ t.status = 0) ∧
      (∃ t, exec .buildExc (given [(1, 17), (2, 3), (3, 2), (4, 1)] [] [] []) = .next t ∧ t.status = 0) ∧
      (given [(1, 17), (2, 3), (3, 2), (4, 1)] [] [] []).num 2 ≠ 0 :=
  ⟨inv_of (by decide), ⟨_, rfl, by decide⟩, ⟨_, rfl, by decide⟩, by decide⟩

/-- VAL.RTU: a frame with no function code, one with no CRC position, one with both; a zero exception code too. -/
theorem witness_ValRtu :
    (frame true 0 []).byte 7 % 128 = 0 ∧ (frame true 0x80 []).byte 7 % 128 = 0 ∧
      ((frame true 7 []).byte 7 % 128 ≠ 0 ∧ (frame true 7 []).kind = .other) ∧
      ((frame true 3 []).byte 7 % 128 ≠ 0 ∧ (frame true 3 []).kind ≠ .other) := by decide

end Sys2Proof.Tests
end

section
/-! PROOFS. The statements of 10_state.md: the step, the end of every command, and what a command may write. -/

namespace Sys2Proof.Machine

/-! ### The step (R20, R23, R87) -/

theorem issued_of_pending {s : State} {c : Word} {rest : List Word} (hp : s.pending = c :: rest) :
    s.issued = { s with pending := rest } := by simp [State.issued, hp]

/-- A word that decodes runs its command. -/
theorem step_of_decode {s : State} {c : Word} {rest : List Word} {i : Instr} (hp : s.pending = c :: rest)
    (hd : decode c = some i) : step s = exec i s.issued := by simp [step, hp, hd]

/-- A word that is no command is refused (R87). -/
theorem step_of_undecodable {s : State} {c : Word} {rest : List Word} (hp : s.pending = c :: rest)
    (hd : decode c = none) : step s = raise .reservedEncoding s.issued := by simp [step, hp, hd]

/-- Settles O6: the step's equation for a word that decodes, with the state after the issue written out. -/
theorem stepRunsTheDecodedCommand : Obligations.StepRunsTheDecodedCommand := by
  intro s c rest i hp hd
  rw [step_of_decode hp hd, issued_of_pending hp]

/-! ### The end of every command (R24, R25, R250, R258) -/

theorem ended_raise (e : Status) (s : State) : Ended s (s.respond e 0) e 0 := ⟨rfl, ferrAfter_eq s.ferr e, rfl⟩

/-- Each of the three ends of `Ends` is a next state that keeps the host's pending commands and the parameters, with
STATUS, FERR and the response by the rules. -/
theorem Ends.exists_next {i : Instr} {s : State} {o : Outcome} (h : Ends i s o) :
    ∃ t e d, o = .next t ∧ Ended s t e d ∧ t.pending = s.pending ∧ t.cfg = s.cfg := by
  cases h with
  | failed e => exact ⟨_, e, 0, rfl, ended_raise e s, rfl, rfl⟩
  | done s' eff =>
    exact ⟨_, .ok, 0, rfl, ⟨rfl, by simp [ferrAfter_eq, eff.ferr], by simp [eff.responses]⟩,
      eff.pending, eff.cfg⟩
  | doneReg rd v s' eff =>
    exact ⟨_, .ok, v, rfl, ⟨rfl, by simp [ferrAfter_eq, eff.ferr], by simp [eff.responses]⟩,
      eff.pending, eff.cfg⟩

/-- What the ends of all commands have in common, CLRF and RESET among them, which do not keep FERR as `Ended` says. -/
structure Answers (s t : State) (e : Status) (d : Word) : Prop where
  pending : t.pending = s.pending
  cfg : t.cfg = s.cfg
  status : t.status = e.code
  responses : t.responses = s.responses ++ [{ status := e.code, data := d }]

/-- Every command answers a next state. -/
theorem exec_answers (i : Instr) (s : State) : ∃ t e d, exec i s = .next t ∧ Answers s t e d := by
  by_cases hc : i = .clrf
  · subst hc; exact ⟨_, .ok, 0, rfl, rfl, rfl, rfl, rfl⟩
  by_cases hr : i = .reset
  · subst hr; exact ⟨_, .ok, 0, rfl, rfl, rfl, rfl, rfl⟩
  obtain ⟨t, e, d, ht, he, hp, hg⟩ := (exec_ends i s hc hr).exists_next
  exact ⟨t, e, d, ht, hp, hg, he.status, he.responses⟩

/-- Every command word answers a next state, from the state in which it is no longer pending. -/
theorem step_answers {s : State} (h : s.pending ≠ []) : ∃ t e d, step s = .next t ∧ Answers s.issued t e d := by
  obtain ⟨c, rest, hp⟩ := List.exists_cons_of_ne_nil h
  cases hd : decode c with
  | none => exact ⟨_, _, 0, step_of_undecodable hp hd, rfl, rfl, rfl, rfl⟩
  | some i => rw [step_of_decode hp hd]; exact exec_answers i s.issued

/-- Settles O8: the status of the answer is a code, and codes are at most 5. -/
theorem everyCommandWordGetsOneResponse : Obligations.EveryCommandWordGetsOneResponse := by
  intro s h
  obtain ⟨t, e, d, ht, ha⟩ := step_answers h
  exact ⟨t, d, ht, ha.pending, ha.cfg, ha.status ▸ e.code_le, ha.status ▸ ha.responses⟩

/-! ### The registers (R21, R22) -/

/-- Of the three ends, only the one with a destination writes a register, and that one alone. -/
theorem Ends.getX {i : Instr} {s t : State} {o : Outcome} (h : Ends i s o) (ho : o = .next t) {r : Reg}
    (hr : dest i ≠ some r) : t.getX r = s.getX r := by
  cases h with
  | failed e => cases ho; rfl
  | done s' eff => cases ho; simp [State.getX, eff.x]
  | doneReg rd v s' eff hd =>
    cases ho
    have hne : rd ≠ r := fun e => hr (e ▸ hd)
    calc ((s'.setX rd v).respond .ok v).getX r = s'.getX r := by simp [hne]
      _ = s.getX r := by simp [State.getX, eff.x]

/-- Settles O15: CLRF writes no register, and every other command ends in one of the three ways. -/
theorem onlyTheDestinationRegisterIsWritten : Obligations.OnlyTheDestinationRegisterIsWritten := by
  intro i s t r hr ht hd
  by_cases hc : i = .clrf
  · subst hc; cases ht; rfl
  · exact (exec_ends i s hc hr).getX ht hd

/-! ### What a command writes (R26 to R28, 10_state.md section 7) -/

/-- The parts of the state beside the registers that a command may write. -/
structure Writes where
  dir : Bool := false
  crc : Bool := false
  lrc : Bool := false
  buf : Bool := false
  w : Bool := false
  oct : Bool := false

/-- What each command may write, as the summary of 10_state.md section 7 lists it. -/
def writes : Instr → Writes
  | .reset => { dir := true, crc := true, lrc := true, buf := true, w := true, oct := true }
  | .build _ | .buildExc => { dir := true, crc := true, buf := true }
  | .setIsreq _ => { dir := true }
  | .crcInit | .crcUpd _ | .crcBuf _ _ _ | .crcCalc _ | .valRtu _ => { crc := true }
  | .crcAppend => { crc := true, buf := true }
  | .lrcInit | .lrcUpd _ | .lrcBuf _ _ _ => { lrc := true }
  | .stb _ _ | .setTid _ | .setPid _ | .setMlen _ | .setSid _ | .setFc _ | .setSa _ | .setRc _ | .setBc _
  | .setEc _ | .setIsexc _ | .putv _ => { buf := true }
  | .stw _ _ | .packU8 _ _ _ _ | .packU16 _ _ _ | .packU32 _ _ _ | .packF32 _ _ _ | .packStr _ _ _
  | .packOct _ _ _ | .getv _ => { w := true }
  | .sto _ _ | .unpkStr _ _ _ | .unpkOct _ _ _ => { oct := true }
  | _ => {}

/-- What `f` does not list is the same in `s` and `t`. -/
structure Within (f : Writes) (s t : State) : Prop where
  dir : f.dir = false → t.dir = s.dir
  crc : f.crc = false → t.crc = s.crc
  lrc : f.lrc = false → t.lrc = s.lrc
  buf : f.buf = false → t.buf = s.buf
  w : f.w = false → t.w = s.w
  oct : f.oct = false → t.oct = s.oct

section effects

variable (s : State)

theorem Within.refl (f : Writes) : Within f s s :=
  ⟨fun _ => rfl, fun _ => rfl, fun _ => rfl, fun _ => rfl, fun _ => rfl, fun _ => rfl⟩

theorem within_dir (d : Bool) : Within { dir := true } s { s with dir := d } :=
  ⟨nofun, fun _ => rfl, fun _ => rfl, fun _ => rfl, fun _ => rfl, fun _ => rfl⟩

theorem within_crc (c : Half) : Within { crc := true } s { s with crc := c } :=
  ⟨fun _ => rfl, nofun, fun _ => rfl, fun _ => rfl, fun _ => rfl, fun _ => rfl⟩

theorem within_lrc (l : Byte) : Within { lrc := true } s { s with lrc := l } :=
  ⟨fun _ => rfl, fun _ => rfl, nofun, fun _ => rfl, fun _ => rfl, fun _ => rfl⟩

theorem within_buf (m : Mem 8) : Within { buf := true } s { s with buf := m } :=
  ⟨fun _ => rfl, fun _ => rfl, fun _ => rfl, nofun, fun _ => rfl, fun _ => rfl⟩

theorem within_w (m : Mem 16) : Within { w := true } s { s with w := m } :=
  ⟨fun _ => rfl, fun _ => rfl, fun _ => rfl, fun _ => rfl, nofun, fun _ => rfl⟩

theorem within_oct (m : Mem 8) : Within { oct := true } s { s with oct := m } :=
  ⟨fun _ => rfl, fun _ => rfl, fun _ => rfl, fun _ => rfl, fun _ => rfl, nofun⟩

/-- The CRC of a frame goes into CRC and into BUF (R209). -/
theorem within_crc_buf (c : Half) (m : Mem 8) :
    Within { crc := true, buf := true } s { s with crc := c, buf := m } :=
  ⟨fun _ => rfl, nofun, fun _ => rfl, nofun, fun _ => rfl, fun _ => rfl⟩

/-- A builder writes DIR and seals its frame (R231, R233). -/
theorem within_sealFrame (d : Bool) (m : Mem 8) (len : Nat) :
    Within { dir := true, crc := true, buf := true } s (sealFrame { s with dir := d } m len) :=
  ⟨nofun, nofun, fun _ => rfl, nofun, fun _ => rfl, fun _ => rfl⟩

theorem within_all (t : State) : Within (writes .reset) s t :=
  ⟨nofun, nofun, nofun, nofun, nofun, nofun⟩

theorem within_ferr (f : Writes) (v : Byte) : Within f s { s with ferr := v } :=
  ⟨fun _ => rfl, fun _ => rfl, fun _ => rfl, fun _ => rfl, fun _ => rfl, fun _ => rfl⟩

end effects

theorem Within.setX {f : Writes} {s t : State} (h : Within f s t) (r : Reg) (v : Word) : Within f s (t.setX r v) :=
  ⟨h.dir, h.crc, h.lrc, h.buf, h.w, h.oct⟩

theorem Within.respond {f : Writes} {s t : State} (h : Within f s t) (e : Status) (d : Word) :
    Within f s (t.respond e d) := ⟨h.dir, h.crc, h.lrc, h.buf, h.w, h.oct⟩

/-! ### The same command from two values of FERR (R25) -/

/-- The ends a command `i` has in `s` and in `s` with FERR at `f`: the same failure, or the same effect, inside what `i`
writes, and the same value for the destination. RDERR alone may give two values. CLRF and RESET bring FERR to the same
value, so the effects may differ in it. -/
inductive EndsAlike (i : Instr) (s : State) (f : Byte) : Outcome → Outcome → Prop where
  | failed (e : Status) : EndsAlike i s f (raise e s) (raise e { s with ferr := f })
  | done (s' : State) (f' : Byte) (within : Within (writes i) s s') :
      EndsAlike i s f (finish s') (finish { s' with ferr := f' })
  | doneReg (rd : Reg) (v : Word) (s' : State) (within : Within (writes i) s s') :
      EndsAlike i s f (finishReg rd v s') (finishReg rd v { s' with ferr := f })
  | readFerr (rd : Reg) (v v' : Word) (eq : i = .rderr rd) :
      EndsAlike i s f (finishReg rd v s) (finishReg rd v' { s with ferr := f })

theorem EndsAlike.within {i : Instr} {s t : State} {f : Byte} {o o' : Outcome} (h : EndsAlike i s f o o')
    (ho : o = .next t) : Within (writes i) s t := by
  cases h with
  | failed e => cases ho; exact (Within.refl s _).respond e 0
  | done s' f' hw => cases ho; exact hw.respond .ok 0
  | doneReg rd v s' hw => cases ho; exact (hw.setX rd v).respond .ok v
  | readFerr rd v v' => cases ho; exact ((Within.refl s _).setX rd v).respond .ok v

theorem EndsAlike.next {i : Instr} {s t : State} {f : Byte} {o o' : Outcome} (h : EndsAlike i s f o o')
    (hi : ∀ rd, i ≠ .rderr rd) (ho : o = .next t) : ∃ f', o' = .next { t with ferr := f' } := by
  cases h with
  | failed e => cases ho; exact ⟨_, rfl⟩
  | done s' f' => cases ho; exact ⟨_, rfl⟩
  | doneReg rd v s' => cases ho; exact ⟨_, rfl⟩
  | readFerr rd v v' eq => exact absurd eq (hi rd)

section forms

variable {i : Instr} {s : State} {f : Byte}

/-- A check that does not read FERR goes the same way in both states. -/
theorem alike_ite {p : Prop} [Decidable p] {a a' b b' : Outcome} (ha : EndsAlike i s f a a')
    (hb : EndsAlike i s f b b') : EndsAlike i s f (if p then a else b) (if p then a' else b') := by
  split
  · exact ha
  · exact hb

/-- An effect that leaves FERR alone. -/
theorem alike_done {s' : State} (hw : Within (writes i) s s') :
    EndsAlike i s f (finish s') (finish { s' with ferr := f }) := .done s' f hw

theorem alike_value (rd : Reg) (v : Word) :
    EndsAlike i s f (finishReg rd v s) (finishReg rd v { s with ferr := f }) := .doneReg rd v s (.refl s _)

theorem alike_withIndex {size : Nat} {rs1 : Reg} {k k' : Nat → Outcome} (hk : ∀ a, EndsAlike i s f (k a) (k' a)) :
    EndsAlike i s f (withIndex size rs1 s k) (withIndex size rs1 { s with ferr := f } k') :=
  alike_ite (.failed _) (hk _)

theorem alike_withSpan {rs1 rs2 : Reg} {p : Nat → Bool} {k k' : Nat → Nat → Outcome}
    (hk : ∀ a n, EndsAlike i s f (k a n) (k' a n)) :
    EndsAlike i s f (withSpan rs1 rs2 p s k) (withSpan rs1 rs2 p { s with ferr := f } k') :=
  alike_ite (.failed _) (alike_ite (.failed _) (hk _ _))

theorem alike_withSpanLen {rv rs1 rs2 : Reg} {k k' : Nat → Nat → Nat → Outcome}
    (hk : ∀ a n l, EndsAlike i s f (k a n l) (k' a n l)) :
    EndsAlike i s f (withSpanLen rv rs1 rs2 s k) (withSpanLen rv rs1 rs2 { s with ferr := f } k') :=
  alike_ite (.failed _) (alike_ite (.failed _) (alike_ite (.failed _) (hk _ _ _)))

theorem alike_withBufRange {rs1 rs2 : Reg} {k k' : Nat → Nat → Outcome}
    (hk : ∀ a n, EndsAlike i s f (k a n) (k' a n)) :
    EndsAlike i s f (withBufRange rs1 rs2 s k) (withBufRange rs1 rs2 { s with ferr := f } k') :=
  alike_ite (.failed _) (hk _ _)

theorem alike_getField (rd : Reg) (v : Option Nat) :
    EndsAlike i s f (getField rd v s) (getField rd v { s with ferr := f }) := by
  cases v with
  | none => exact .failed _
  | some v => exact alike_value rd _

theorem alike_setField {rs1 : Reg} {present : Bool} {max : Nat} {upd upd' : Nat → State}
    (hu : ∀ v, EndsAlike i s f (finish (upd v)) (finish (upd' v))) :
    EndsAlike i s f (setField rs1 present max s upd) (setField rs1 present max { s with ferr := f } upd') :=
  alike_ite (.failed _) (alike_ite (.failed _) (hu _))

theorem alike_withCrcPosition {k k' : Outcome} (hk : EndsAlike i s f k k') :
    EndsAlike i s f (withCrcPosition s k) (withCrcPosition { s with ferr := f } k') :=
  alike_ite (.failed _) hk

theorem alike_withLrc {k k' : Outcome} (hk : EndsAlike i s f k k') :
    EndsAlike i s f (withLrc s k) (withLrc { s with ferr := f } k') := alike_ite hk (.failed _)

end forms

/-- Every command, from two values of FERR. -/
theorem exec_endsAlike (i : Instr) (s : State) (f : Byte) :
    EndsAlike i s f (exec i s) (exec i { s with ferr := f }) := by
  cases i <;> simp only [exec]
  case nop => exact alike_done (.refl s _)
  case ldi rd _ | ldih rd _ | mov rd _ => exact alike_value rd _
  case clrf => exact .done { s with ferr := 0 } 0 (within_ferr s _ 0)
  case reset => exact .done _ 0 (within_all s _)
  case rderr rd => exact .readFerr rd _ _ rfl
  case ldb rd _ | ldw rd _ | ldo rd _ => exact alike_withIndex fun _ => alike_value rd _
  case stb => exact alike_withIndex fun _ => alike_done (within_buf s _)
  case stw => exact alike_withIndex fun _ => alike_done (within_w s _)
  case sto => exact alike_withIndex fun _ => alike_done (within_oct s _)
  case unpkU8 rd _ _ ord => cases ord <;> exact alike_withSpan fun _ _ => alike_value rd _
  case unpkU16 rd _ _ | unpkU32 rd _ _ | unpkF32 rd _ _ => exact alike_withSpan fun _ _ => alike_value rd _
  case unpkStr rd _ _ | unpkOct rd _ _ => exact alike_withSpan fun _ _ => .doneReg rd _ _ (within_oct s _)
  case packU8 rd _ _ ord => cases ord <;> exact alike_withSpan fun _ _ => alike_done (within_w s _)
  case packU16 | packU32 | packF32 => exact alike_withSpan fun _ _ => alike_done (within_w s _)
  case packStr | packOct => exact alike_withSpanLen fun _ _ _ => alike_done (within_w s _)
  case getTid rd | getPid rd | getMlen rd | getSid rd | getFc rd | getSa rd | getRc rd | getBc rd | getEc rd |
      getIsexc rd | getIsreq rd | getHassa rd | getHasrv rd | getRtulen rd | getPdulen rd | getTcplen rd |
      getVoff rd => exact alike_getField rd _
  case setTid | setPid | setMlen | setSid | setFc | setSa | setRc | setBc | setEc | setIsexc =>
    exact alike_setField fun _ => alike_done (within_buf s _)
  case setIsreq => exact alike_setField fun _ => alike_done (within_dir s _)
  case getv rd =>
    have hv : State.voff { s with ferr := f } = s.voff := rfl
    simp only [execGetv, hv]
    cases s.voff with
    | none => exact .failed _
    | some off => exact .doneReg rd _ _ (within_w s _)
  case putv rs1 =>
    have hv : State.voff { s with ferr := f } = s.voff := rfl
    simp only [execPutv, hv]
    cases s.voff with
    | none => exact .failed _
    | some off => exact alike_ite (.failed _) (alike_done (within_buf s _))
  case crcInit | crcUpd => exact alike_done (within_crc s _)
  case crcRd rd => exact alike_value rd _
  case crcBuf rd _ _ => exact alike_withBufRange fun _ _ => .doneReg rd _ _ (within_crc s _)
  case crcCalc rd => exact alike_withCrcPosition (.doneReg rd _ _ (within_crc s _))
  case crcStored rd => exact alike_withCrcPosition (alike_value rd _)
  case crcAppend => exact alike_withCrcPosition (alike_done (within_crc_buf s _ _))
  case lrcInit | lrcUpd => exact alike_withLrc (alike_done (within_lrc s _))
  case lrcRd rd => exact alike_withLrc (alike_value rd _)
  case lrcBuf rd _ _ => exact alike_withLrc (alike_withBufRange fun _ _ => .doneReg rd _ _ (within_lrc s _))
  case calcRtulen rd _ _ _ _ | txtime rd _ _ => exact alike_ite (.failed _) (alike_value rd _)
  case expRlen rd => exact alike_ite (alike_value rd _) (.failed _)
  case build | buildExc => exact alike_ite (alike_done (within_sealFrame s _ _ _)) (.failed _)
  case valRtu rd =>
    exact alike_ite (alike_value rd _) (alike_ite (alike_value rd _)
      (alike_ite (.doneReg rd _ _ (within_crc s _)) (.doneReg rd _ _ (within_crc s _))))
  case valTcp rd => exact alike_ite (alike_value rd _) (alike_ite (alike_value rd _) (alike_value rd _))

/-- A command writes nothing beside its registers that `writes` does not list for it. -/
theorem exec_within {i : Instr} {s t : State} (h : exec i s = .next t) : Within (writes i) s t :=
  (exec_endsAlike i s s.ferr).within h

/-- Settles O17: the commands named are all that `writes` lists for DIR, CRC and LRC. -/
theorem onlyTheseCommandsWriteDirCrcLrc : Obligations.OnlyTheseCommandsWriteDirCrcLrc := by
  intro i s t hr ht
  have hw := exec_within ht
  refine ⟨fun hs hb he => hw.dir ?_, fun hi hu hc hk ha hb he hv => hw.crc ?_, fun hi hu hb => hw.lrc ?_⟩
  · cases i
    case reset => exact absurd rfl hr
    case setIsreq r => exact absurd rfl (hs r)
    case build q => exact absurd rfl (hb q)
    case buildExc => exact absurd rfl he
    all_goals rfl
  · cases i
    case reset => exact absurd rfl hr
    case crcInit => exact absurd rfl hi
    case crcUpd r => exact absurd rfl (hu r)
    case crcBuf d a n => exact absurd rfl (hc d a n)
    case crcCalc r => exact absurd rfl (hk r)
    case crcAppend => exact absurd rfl ha
    case build q => exact absurd rfl (hb q)
    case buildExc => exact absurd rfl he
    case valRtu r => exact absurd rfl (hv r)
    all_goals rfl
  · cases i
    case reset => exact absurd rfl hr
    case lrcInit => exact absurd rfl hi
    case lrcUpd r => exact absurd rfl (hu r)
    case lrcBuf d a n => exact absurd rfl (hb d a n)
    all_goals rfl

/-- Settles O18: the commands named are all that `writes` lists for BUF, W and OCT. -/
theorem onlyTheseCommandsWriteMemory : Obligations.OnlyTheseCommandsWriteMemory := by
  intro i s t hr ht
  have hw := exec_within ht
  refine ⟨fun hs hf ha hb he => hw.buf ?_, fun hs hp hg => hw.w ?_, fun hs hu => hw.oct ?_⟩
  · cases i
    case reset => exact absurd rfl hr
    case stb a b => exact absurd rfl (hs a b)
    case setTid a | setPid a | setMlen a | setSid a | setFc a | setSa a | setRc a | setBc a | setEc a |
        setIsexc a | putv a => exact absurd (by simp) (hf a)
    case crcAppend => exact absurd rfl ha
    case build q => exact absurd rfl (hb q)
    case buildExc => exact absurd rfl he
    all_goals rfl
  · cases i
    case reset => exact absurd rfl hr
    case stw a b => exact absurd rfl (hs a b)
    case packU8 v a b o => exact absurd (by simp) (hp v a b o)
    case packU16 v a b | packU32 v a b | packF32 v a b | packStr v a b | packOct v a b =>
      exact absurd (by simp) (hp v a b .msb)
    case getv d => exact absurd rfl (hg d)
    all_goals rfl
  · cases i
    case reset => exact absurd rfl hr
    case sto a b => exact absurd rfl (hs a b)
    case unpkStr d a b | unpkOct d a b => exact absurd (by simp) (hu d a b)
    all_goals rfl

/-! ### FERR (R25) -/

/-- Every command word but those of CLRF and RESET ends with FERR by the rule of R25. -/
theorem step_ended {s t : State} {c : Word} {rest : List Word} (hp : s.pending = c :: rest)
    (hc : decode c ≠ some .clrf) (hr : decode c ≠ some .reset) (ht : step s = .next t) :
    ∃ e d, Ended s.issued t e d := by
  cases hd : decode c with
  | none =>
    rw [step_of_undecodable hp hd] at ht
    cases ht
    exact ⟨_, 0, ended_raise _ _⟩
  | some i =>
    rw [step_of_decode hp hd] at ht
    obtain ⟨t', e, d, ht', he, -⟩ :=
      (exec_ends i s.issued (fun h => hc (h ▸ hd)) (fun h => hr (h ▸ hd))).exists_next
    cases ht.symm.trans ht'
    exact ⟨e, d, he⟩

/-- FERR changes only where it was 0 and the command failed. -/
theorem Ended.ferr_eq {s t : State} {e : Status} {d : Word} (h : Ended s t e d) :
    t.ferr = if s.ferr = 0 ∧ t.status ≠ 0 then t.status else s.ferr := by
  rw [h.ferr, h.status]
  by_cases hf : s.ferr = 0
  · by_cases he : e.code = 0 <;> simp [hf, he]
  · rw [if_neg hf, if_neg fun h => hf h.1]

/-- Settles O13: the rule for FERR on every word, its two clearing commands, its reader, and the independence of every
other command. -/
theorem ferrRecordsTheFirstFailure : Obligations.FerrRecordsTheFirstFailure := by
  refine ⟨fun s t c rest hp hc hr ht => ?_, fun s t h => ?_, fun s rd => ?_, fun i s t f hi ht => ?_⟩
  · obtain ⟨e, d, h⟩ := step_ended hp hc hr ht
    exact h.ferr_eq
  · rcases h with h | h <;> (cases h; rfl)
  · exact givesReg_finishReg_of (zextByte_toNat s.ferr)
  · exact (exec_endsAlike i s f).next hi ht

end Sys2Proof.Machine
end

section
/-! PROOFS. The statements of 20_memory.md: every command's writes stay inside the three spaces, frame commands write no
byte of BUF above 269, and the fields of the frame follow the layout table R59. -/

namespace Sys2Proof.Machine

/-! ### A space after writes below a limit (R50) -/

section stored

variable {n limit size : Nat}

/-- `m'` is `m` after writes at indices below `limit`, in any number and order. -/
inductive Stored (limit : Nat) (m : Mem n) : Mem n → Prop where
  | refl : Stored limit m m
  | write {m' : Mem n} (h : Stored limit m m') {a : Nat} (ha : a < limit) (v : BitVec n) :
      Stored limit m (Memory.write m' a v)

theorem Stored.of_eq {m m' : Mem n} (h : m' = m) : Stored limit m m' := h ▸ .refl

theorem Stored.setBe16 {m m' : Mem 8} (h : Stored limit m m') {a : Nat} (ha : a + 1 < limit) (v : Half) :
    Stored limit m (setBe16 m' a v) := (h.write (by omega) _).write ha _

theorem Stored.setLe16 {m m' : Mem 8} (h : Stored limit m m') {a : Nat} (ha : a + 1 < limit) (v : Half) :
    Stored limit m (setLe16 m' a v) := (h.write (by omega) _).write ha _

theorem Stored.writePair {m m' : Mem 16} (h : Stored limit m m') {a : Nat} (ha : a + 1 < limit) (v : Word) :
    Stored limit m (writePair m' a v) := (h.write (by omega) _).write ha _

theorem Stored.writeRange {m : Mem n} (l : List (BitVec n)) :
    ∀ {m' : Mem n} {a : Nat}, Stored limit m m' → a + l.length ≤ limit →
      Stored limit m (Memory.writeRange m' a l) := by
  induction l with
  | nil => exact fun h _ => h
  | cons v l ih =>
    intro m' a h ha
    rw [List.length_cons] at ha
    exact ih (h.write (by omega) v) (by omega)

/-- Writes inside the space keep the canonical form. -/
theorem Stored.wf {m m' : Mem n} (h : Stored limit m m') (hl : limit ≤ size) (hm : Memory.wf size m) :
    Memory.wf size m' := by
  induction h with
  | refl => exact hm
  | write _ ha v ih => exact Memory.wf_write ih (by omega) v

/-- Elements from the limit on read as before. -/
theorem Stored.read {m m' : Mem n} (h : Stored limit m m') (hl : limit ≤ size) (hm : Memory.wf size m) {b : Nat}
    (hb : limit ≤ b) : Memory.read m' b = Memory.read m b := by
  induction h with
  | refl => rfl
  | write h ha v ih => rw [Memory.read_write (h.wf hl hm).1, if_neg (by omega), ih]

end stored

/-! ### What holds of every next state a command can answer -/

section after

variable {P : State → Prop} {s : State}

/-- Every next state the outcome can be has `P`. -/
def After (P : State → Prop) (o : Outcome) : Prop := ∀ t, o = .next t → P t

theorem after_next {t : State} (h : P t) : After P (.next t) := by
  intro t' ht
  cases ht
  exact h

variable (hfail : ∀ e, P (s.respond e 0))
include hfail

theorem after_raise (e : Status) : After P (raise e s) := after_next (hfail e)

theorem after_withIndex {size : Nat} {rs1 : Reg} {k : Nat → Outcome}
    (hk : s.num rs1 < size → After P (k (s.num rs1))) : After P (withIndex size rs1 s k) := by
  rcases withIndex_cases size rs1 s k with ⟨-, h⟩ | ⟨ha, h⟩ <;> rw [h]
  · exact after_raise hfail _
  · exact hk ha

theorem after_withSpan {rs1 rs2 : Reg} {p : Nat → Bool} {k : Nat → Nat → Outcome}
    (hk : s.num rs1 + s.num rs2 ≤ s.cfg.nw → p (s.num rs2) = false → After P (k (s.num rs1) (s.num rs2))) :
    After P (withSpan rs1 rs2 p s k) := by
  rcases withSpan_cases rs1 rs2 p s k with ⟨-, h⟩ | ⟨-, -, h⟩ | ⟨hs, hp, h⟩ <;> rw [h]
  · exact after_raise hfail _
  · exact after_raise hfail _
  · exact hk hs hp

theorem after_withSpanLen {rv rs1 rs2 : Reg} {k : Nat → Nat → Nat → Outcome}
    (hk : s.num rs1 + s.num rs2 ≤ s.cfg.nw → ceilDiv (s.num rv) 2 ≤ s.num rs2 →
      After P (k (s.num rs1) (s.num rs2) (s.num rv))) : After P (withSpanLen rv rs1 rs2 s k) := by
  rcases withSpanLen_cases rv rs1 rs2 s k with ⟨-, h⟩ | ⟨-, -, -, h⟩ | ⟨hs, -, hc, h⟩ <;> rw [h]
  · exact after_raise hfail _
  · exact after_raise hfail _
  · exact hk hs hc

theorem after_setField {rs1 : Reg} {present : Bool} {max : Nat} {upd : Nat → State}
    (hu : P ((upd (s.num rs1)).respond .ok 0)) : After P (setField rs1 present max s upd) := by
  rcases setField_cases rs1 present max s upd with ⟨-, h⟩ | ⟨-, -, h⟩ | ⟨-, -, h⟩ <;> rw [h]
  · exact after_raise hfail _
  · exact after_raise hfail _
  · exact after_next hu

theorem after_withCrcPosition {k : Outcome} (hk : After P k) : After P (withCrcPosition s k) := by
  rcases withCrcPosition_cases s k with ⟨-, h⟩ | ⟨-, h⟩ <;> rw [h]
  · exact after_raise hfail _
  · exact hk

end after

/-! ### Writes to BUF (R50, R64, R65) -/

/-- The field of a stored byte count is at 8 or at 12 (R146). -/
theorem bcOff_getD_le (s : State) : s.bcOff.getD 0 ≤ 12 := by
  rw [bcOff_eq]
  cases s.kind <;> decide

/-- The CRC of the frame in BUF ends below 270 (R64). -/
theorem crcPos_lt (s : State) : s.crcPos + 1 < 270 := by
  have h := frameLength_le s
  rw [State.crcPos, rtuLength_eq, rtuBase]
  omega

/-- The values of the frame in BUF end below 270 (R64). -/
theorem voff_bound {s : State} {off : Nat} (h : s.voff = some off) : off + s.bcOrZero < 269 ∧ s.bcOrZero < 256 := by
  have hv : s.values = some (off, s.bcOrZero) := by rw [values_eq, h]; rfl
  obtain ⟨-, hbc, hoff⟩ := values_bound hv
  exact ⟨hoff, hbc⟩

/-- The longest kind of frame is a multiple-write request (R220). -/
theorem calcRtuLength_le (e r : Bool) (fc bc : Nat) : calcRtuLength e r fc bc ≤ 9 + bc := by
  unfold calcRtuLength
  split
  · omega
  · split <;> omega

theorem putHeader_stored {m m' : Mem 8} (h : Stored 270 m m') (tid sid : Nat) (fcByte : Byte) :
    Stored 270 m (putHeader m' tid sid fcByte) :=
  (((h.setBe16 (by decide) _).setBe16 (by decide) _).write (by decide) _).write (by decide) _

theorem putPayload_stored {m m' : Mem 8} (h : Stored 270 m m') (rule : CoilTrueRule) (w : Mem 16) (rq : Bool)
    (fc sa cnt : Nat) {bc : Nat} (hbc : bc ≤ 255) : Stored 270 m (putPayload rule m' w rq fc sa cnt bc) := by
  unfold putPayload
  split
  · exact (h.setBe16 (by decide) _).setBe16 (by decide) _
  · exact (h.write (by decide) _).writeRange _ (by rw [payload_length]; omega)
  · exact (h.setBe16 (by decide) _).writeRange _ (by rw [payload_length]; omega)
  · exact (((h.setBe16 (by decide) _).setBe16 (by decide) _).write (by decide) _).writeRange _
      (by rw [payload_length]; omega)
  · exact (h.setBe16 (by decide) _).setBe16 (by decide) _
  · exact h

theorem sealFrame_stored {m m' : Mem 8} (h : Stored 270 m m') (s : State) {len : Nat} (hl : len ≤ 264) :
    Stored 270 m (sealFrame s m' len).buf :=
  (h.setBe16 (by decide) _).setLe16 (by rw [rtuBase]; omega) _

/-- BUILD writes BUF below 270 for every operand it accepts, whose byte count is at most 255 (R231, R232). -/
theorem execBuild_stored (rq : Bool) (s : State) : After (fun t => Stored 270 s.buf t.buf) (execBuild rq s) := by
  unfold execBuild
  dsimp only
  split
  · rename_i hok
    have hbc : buildBc rq (s.num 2) (s.num 4) ≤ 255 := by
      simp only [buildOk, Bool.and_eq_true, decide_eq_true_eq] at hok
      obtain ⟨-, hbc⟩ := hok
      exact hbc
    have hlen := calcRtuLength_le false rq (s.num 2) (buildBc rq (s.num 2) (s.num 4))
    exact after_next (sealFrame_stored (putPayload_stored (putHeader_stored .refl _ _ _) _ _ _ _ _ _ hbc)
      { s with dir := rq } (by omega))
  · exact after_raise (s := s) (fun _ => .refl) _

theorem execBuildExc_stored (s : State) : After (fun t => Stored 270 s.buf t.buf) (execBuildExc s) := by
  unfold execBuildExc
  dsimp only
  split
  · exact after_next (sealFrame_stored ((putHeader_stored .refl _ _ _).write (by decide) _)
      { s with dir := false } (by decide))
  · exact after_raise (s := s) (fun _ => .refl) _

/-- PUTV writes the values of the frame in BUF only (R193). -/
theorem execPutv_stored (rs1 : Reg) (s : State) : After (fun t => Stored 270 s.buf t.buf) (execPutv rs1 s) := by
  have hfail : ∀ e, Stored 270 s.buf (s.respond e 0).buf := fun _ => .refl
  unfold execPutv
  split
  · exact after_raise hfail _
  · rename_i off hoff
    have hb := (voff_bound hoff).1
    split
    · exact after_raise hfail _
    · exact after_next (Stored.refl.writeRange _ (by rw [payload_length]; omega))

/-- Every command but STB and RESET writes BUF below 270 only. -/
theorem exec_buf_stored {i : Instr} (s : State) (hr : i ≠ .reset) (hs : ∀ a b, i ≠ .stb a b) :
    After (fun t => Stored 270 s.buf t.buf) (exec i s) := by
  have hfail : ∀ e, Stored 270 s.buf (s.respond e 0).buf := fun _ => .refl
  have hsame : (writes i).buf = false → After (fun t => Stored 270 s.buf t.buf) (exec i s) :=
    fun h t ht => .of_eq ((exec_within ht).buf h)
  cases i <;> simp only [exec]
  case reset => exact absurd rfl hr
  case stb a b => exact absurd rfl (hs a b)
  case setTid | setPid | setMlen | setSa | setRc =>
    exact after_setField hfail (Stored.refl.setBe16 (by decide) _)
  case setSid | setFc | setEc | setIsexc => exact after_setField hfail (Stored.refl.write (by decide) _)
  case setBc =>
    have hb := bcOff_getD_le s
    exact after_setField hfail (Stored.refl.write (by omega) _)
  case putv => exact execPutv_stored _ s
  case crcAppend => exact after_withCrcPosition hfail (after_next (Stored.refl.setLe16 (crcPos_lt s) _))
  case build => exact execBuild_stored _ s
  case buildExc => exact execBuildExc_stored s
  all_goals exact hsame rfl

theorem execStb_stored (rs1 rs2 : Reg) (s : State) :
    After (fun t => Stored bufCap s.buf t.buf) (execStb rs1 rs2 s) :=
  after_withIndex (fun _ => .refl) fun ha => after_next (Stored.refl.write ha _)

/-- Settles O19: the commands that write BUF at all write it below 270. -/
theorem noFrameCommandTouchesBufAbove269 : Obligations.NoFrameCommandTouchesBufAbove269 := by
  intro i s t hi hr hs ht a ha
  exact (exec_buf_stored s hr hs t ht).read (by decide) hi.buf ha

/-! ### Writes to W and OCT (R50) -/

/-- A payload decodes to the most words where its function is a bit function, eight for each byte (R190, R191). -/
theorem decodedWords_length_le (m : Mem 8) (fc off bc : Nat) : (decodedWords m fc off bc).length ≤ 8 * bc := by
  unfold decodedWords
  split
  · rw [List.length_map, List.length_range]
  · rw [List.length_map, List.length_range]
    omega

/-- GETV writes at most 2040 words of W, and an admitted W has them (R192, log 4). -/
theorem execGetv_stored (rd : Reg) {s : State} (hc : s.cfg.Admitted) :
    After (fun t => Stored s.cfg.nw s.w t.w) (execGetv rd s) := by
  unfold execGetv
  split
  · exact after_raise (fun _ => .refl) _
  · rename_i off hoff
    have hb := (voff_bound hoff).2
    have hl := decodedWords_length_le s.buf s.fc7 off s.bcOrZero
    obtain ⟨hnw, -⟩ := hc
    exact after_next (Stored.refl.writeRange _ (by omega))

theorem execPackU8_stored (rv rs1 rs2 : Reg) (ord : ByteOrder) (s : State) :
    After (fun t => Stored s.cfg.nw s.w t.w) (execPackU8 rv rs1 rs2 ord s) := by
  refine after_withSpan (fun _ => .refl) fun hs hp => ?_
  have h1 : ¬ s.num rs2 < 1 := of_decide_eq_false hp
  cases ord <;> exact after_next (Stored.refl.write (by omega) _)

/-- Under admitted parameters every command but RESET writes W inside its size. -/
theorem exec_w_stored {i : Instr} {s : State} (hc : s.cfg.Admitted) (hr : i ≠ .reset) :
    After (fun t => Stored s.cfg.nw s.w t.w) (exec i s) := by
  have hfail : ∀ e, Stored s.cfg.nw s.w (s.respond e 0).w := fun _ => .refl
  have hsame : (writes i).w = false → After (fun t => Stored s.cfg.nw s.w t.w) (exec i s) :=
    fun h t ht => .of_eq ((exec_within ht).w h)
  cases i <;> simp only [exec]
  case reset => exact absurd rfl hr
  case stw => exact after_withIndex hfail fun ha => after_next (Stored.refl.write ha _)
  case packU8 => exact execPackU8_stored _ _ _ _ s
  case packU16 rv rs1 rs2 =>
    refine after_withSpan hfail fun hs hp => after_next (Stored.refl.write ?_ _)
    have h1 : ¬ s.num rs2 < 1 := of_decide_eq_false hp
    omega
  case packU32 rv rs1 rs2 | packF32 rv rs1 rs2 =>
    refine after_withSpan hfail fun hs hp => after_next (Stored.refl.writePair ?_ _)
    have h2 : ¬ s.num rs2 < 2 := of_decide_eq_false hp
    omega
  case packStr =>
    exact after_withSpanLen hfail fun hs _ => after_next (Stored.refl.writeRange _ (by simpa using hs))
  case packOct =>
    refine after_withSpanLen hfail fun hs hl => after_next (Stored.refl.writeRange _ ?_)
    rw [List.length_map, List.length_range]
    omega
  case getv => exact execGetv_stored _ hc
  all_goals exact hsame rfl

/-- Every command but RESET writes OCT inside its size. -/
theorem exec_oct_stored {i : Instr} (s : State) (hr : i ≠ .reset) :
    After (fun t => Stored s.cfg.no s.oct t.oct) (exec i s) := by
  have hfail : ∀ e, Stored s.cfg.no s.oct (s.respond e 0).oct := fun _ => .refl
  have hsame : (writes i).oct = false → After (fun t => Stored s.cfg.no s.oct t.oct) (exec i s) :=
    fun h t ht => .of_eq ((exec_within ht).oct h)
  cases i <;> simp only [exec]
  case reset => exact absurd rfl hr
  case sto => exact after_withIndex hfail fun ha => after_next (Stored.refl.write ha _)
  case unpkStr rd rs1 rs2 =>
    refine after_withSpan hfail fun _ hp => after_next (Stored.refl.writeRange _ ?_)
    have hno : ¬ 2 * s.num rs2 > s.cfg.no := of_decide_eq_false hp
    have hle := (stringBytes_prefix (spanBytes s.w (s.num rs1) (s.num rs2))).length_le
    rw [spanBytes_length] at hle
    omega
  case unpkOct rd rs1 rs2 =>
    refine after_withSpan hfail fun _ hp => after_next (Stored.refl.writeRange _ ?_)
    have hno : ¬ 2 * s.num rs2 > s.cfg.no := of_decide_eq_false hp
    rw [spanBytes_length]
    omega
  all_goals exact hsame rfl

/-! ### The invariant (R28, R50, R250) -/

/-- Without the LRC engine no command but RESET writes LRC: the four LRC commands are refused (R28, R85). -/
theorem exec_lrc {i : Instr} {s : State} (hr : i ≠ .reset) (hl : s.cfg.hasLrc = false) :
    After (fun t => t.lrc = s.lrc) (exec i s) := by
  have refused : ∀ k, After (fun t => t.lrc = s.lrc) (withLrc s k) := fun k => by
    rw [withLrc, if_neg (by simp [hl])]
    exact after_next rfl
  have hsame : (writes i).lrc = false → After (fun t => t.lrc = s.lrc) (exec i s) :=
    fun h t ht => (exec_within ht).lrc h
  cases i <;> simp only [exec]
  case reset => exact absurd rfl hr
  case lrcInit | lrcUpd | lrcBuf => exact refused _
  all_goals exact hsame rfl

/-- FERR keeps its value or takes the code of a status (R25, R250). -/
theorem exec_ferr_le {i : Instr} {s t : State} (hf : s.ferr.toNat ≤ 5) (ht : exec i s = .next t) :
    t.ferr.toNat ≤ 5 := by
  by_cases hc : i = .clrf
  · subst hc; cases ht; simp [ferrAfter_eq, Status.code]
  by_cases hr : i = .reset
  · subst hr; cases ht; simp [ferrAfter_eq, Status.code, State.resetOf]
  obtain ⟨t', e, d, ht', he, -, -⟩ := (exec_ends i s hc hr).exists_next
  cases ht.symm.trans ht'
  rw [he.ferr]
  split
  · exact e.code_le
  · exact hf

/-- RESET brings the state to one that meets the invariant (R33, R281). -/
theorem execReset_meets_inv {s : State} (hc : s.cfg.Admitted) : After State.Inv (execReset s) :=
  after_next ⟨hc, Memory.wf_nil _, Memory.wf_nil _, Memory.wf_nil _, by simp [Status.code],
    by simp [ferrAfter_eq, Status.code, State.resetOf], fun _ => rfl⟩

/-- Every command keeps the invariant. -/
theorem exec_keeps_inv {i : Instr} {s t : State} (hi : s.Inv) (ht : exec i s = .next t) : t.Inv := by
  by_cases hr : i = .reset
  · subst hr; exact execReset_meets_inv hi.cfg t ht
  obtain ⟨t', e, d, ht', ha⟩ := exec_answers i s
  cases ht.symm.trans ht'
  have hbuf : Memory.wf bufCap t.buf := by
    by_cases hs : ∃ a b, i = .stb a b
    · obtain ⟨a, b, rfl⟩ := hs
      exact (execStb_stored a b s t ht).wf le_rfl hi.buf
    · exact (exec_buf_stored s hr (fun a b h => hs ⟨a, b, h⟩) t ht).wf (by decide) hi.buf
  exact {
    cfg := ha.cfg ▸ hi.cfg
    buf := hbuf
    w := ha.cfg ▸ (exec_w_stored hi.cfg hr t ht).wf le_rfl hi.w
    oct := ha.cfg ▸ (exec_oct_stored s hr t ht).wf le_rfl hi.oct
    status := ha.status ▸ e.code_le
    ferr := exec_ferr_le hi.ferr ht
    lrc := fun hl => by
      rw [ha.cfg] at hl
      rw [exec_lrc hr hl t ht, hi.lrc hl] }

theorem State.Inv.issued {s : State} (hi : s.Inv) : s.issued.Inv :=
  ⟨hi.cfg, hi.buf, hi.w, hi.oct, hi.status, hi.ferr, hi.lrc⟩

theorem State.Inv.respond {s : State} (hi : s.Inv) (e : Status) (d : Word) : (s.respond e d).Inv := by
  have hf : (ferrAfter s.ferr e).toNat ≤ 5 := by
    rw [ferrAfter_eq]
    split
    · exact e.code_le
    · exact hi.ferr
  exact ⟨hi.cfg, hi.buf, hi.w, hi.oct, e.code_le, hf, hi.lrc⟩

/-- Settles O11: a step executes a command, refuses a word that is none, or is no next state. -/
theorem stepKeepsTheInvariant : Obligations.StepKeepsTheInvariant := by
  intro s t hi ht
  cases hp : s.pending with
  | nil => simp [step, hp] at ht
  | cons c rest =>
    cases hd : decode c with
    | none =>
      rw [step_of_undecodable hp hd] at ht
      exact after_raise (fun e => hi.issued.respond e 0) _ t ht
    | some i =>
      rw [step_of_decode hp hd] at ht
      exact exec_keeps_inv hi.issued ht

/-! ### The getters of the layout table (R157 to R166, R194) -/

theorem givesReg_getField {rd : Reg} {v n : Nat} {s : State} (h : v = n) (hn : n < 2 ^ 32) :
    GivesReg rd n s (getField rd (some v) s) :=
  givesReg_finishReg_of (by rw [h, BitVec.toNat_ofNat, Nat.mod_eq_of_lt hn])

/-- Settles O36: the layout predicates and the length of each kind of frame (R59). -/
theorem layoutGettersFollowTheFrameKind : Obligations.LayoutGettersFollowTheFrameKind := by
  intro s rd
  have hlen := frameLength_le s
  refine ⟨?hassa, ?hasrv, givesReg_getField (rtuLength_eq s) (by omega), ?pdulen⟩
  case hassa =>
    refine givesReg_getField (v := s.hasSa.toNat) ?_ ?_
    · rw [hasSa_eq]; cases s.kind <;> rfl
    · cases s.kind <;> decide
  case hasrv =>
    refine givesReg_getField (v := s.hasRv.toNat) ?_ ?_
    · rw [hasRv_eq]; cases s.kind <;> rfl
    · cases s.kind <;> decide
  case pdulen => exact givesReg_getField (by rw [State.pduLength, rtuLength_eq]) (by omega)

/-- Settles O37: each kind of frame either has the field, whose value fits 32 bits, or has none (R59). -/
theorem conditionalGettersFollowTheFrameKind : Obligations.ConditionalGettersFollowTheFrameKind := by
  intro s rd
  have hbyte := byte_lt s
  refine ⟨?sa, ?rc, ?bc, ?ec, ?voff⟩ <;> simp only [exec]
  case sa =>
    have h8 := hbyte 8
    have h9 := hbyte 9
    rw [execGetSa, hasSa_eq]
    cases s.kind
    case readRequest | singleWrite | writeRequest | writeResponse =>
      exact givesReg_getField (be16_toNat s 8) (by omega)
    all_goals exact failsWith_raise ..
  case rc =>
    have h8 := hbyte 8
    have h10 := hbyte 10
    have h11 := hbyte 11
    rw [execGetRc, registerCount_eq]
    cases s.kind
    case readRequest | writeRequest | writeResponse => exact givesReg_getField rfl (by omega)
    case singleWrite => exact givesReg_getField rfl (by decide)
    case readResponse => exact givesReg_getField rfl (by split <;> omega)
    all_goals exact failsWith_raise ..
  case bc =>
    have h8 := hbyte 8
    have h12 := hbyte 12
    rw [execGetBc, byteCount_eq]
    cases s.kind
    case exception | other => exact failsWith_raise ..
    all_goals exact givesReg_getField rfl (by omega)
  case ec =>
    have h8 := hbyte 8
    have h := kind_says s
    rw [execGetEc]
    cases hk : s.kind <;> simp only [hk] at h ⊢
    case exception => rw [if_pos h]; exact givesReg_getField rfl (by omega)
    all_goals rw [h.1]; exact failsWith_raise ..
  case voff =>
    rw [execGetVoff, voff_eq]
    cases s.kind
    case readResponse | singleWrite | writeRequest => exact givesReg_getField rfl (by decide)
    all_goals exact failsWith_raise ..

/-! ### The setters of the layout table (R169, R175 to R178) -/

/-- A setter of a two-byte field the frame has (R51, R169). -/
theorem setField_half {s : State} {rs1 : Reg} {o : Outcome} {a b : Nat} (hi : s.Inv) (hb : b < bufCap) (hab : a + 1 = b)
    (ho : o = setField rs1 true 0xFFFF s fun v => { s with buf := setBe16 s.buf a (BitVec.ofNat 16 v) }) :
    if s.num rs1 ≤ 0xFFFF then
      Completes s o { buf := fun c => c = a ∨ c = b }
        (fun t => t.byte a = s.num rs1 / 256 ∧ t.byte b = s.num rs1 % 256)
    else FailsWith .invalidArgument s o := by
  subst hab ho
  split
  · rename_i hv
    have hr := read_setBe16 hi.buf hb (BitVec.ofNat 16 (s.num rs1))
    rw [setField_ok hv]
    refine completes_finish ?_ rfl rfl rfl ?_
    · refine { KeepsBut.refl s _ with buf := fun c hc => ?_ }
      obtain ⟨ha, ha1⟩ := not_or.1 hc
      exact (hr c).trans (by rw [if_neg (Ne.symm ha1), if_neg (Ne.symm ha)])
    · have hn : (BitVec.ofNat 16 (s.num rs1)).toNat = s.num rs1 := by rw [BitVec.toNat_ofNat]; omega
      simp [State.byte, hr, hiByte_toNat, loByte_toNat, hn]
  · rename_i hv
    rw [setField_tooBig hv]
    exact failsWith_raise _ s

/-- A setter of a one-byte field the frame has (R169). -/
theorem setField_byte {s : State} {rs1 : Reg} {o : Outcome} {a : Nat} (hi : s.Inv)
    (ho : o = setField rs1 true 0xFF s fun v => { s with buf := Memory.write s.buf a (BitVec.ofNat 8 v) }) :
    if s.num rs1 ≤ 0xFF then Completes s o { buf := fun c => c = a } (fun t => t.byte a = s.num rs1)
    else FailsWith .invalidArgument s o := by
  subst ho
  split
  · rename_i hv
    have hr := fun c => Memory.read_write hi.buf.1 a c (BitVec.ofNat 8 (s.num rs1))
    rw [setField_ok hv]
    refine completes_finish ?_ rfl rfl rfl ?_
    · exact { KeepsBut.refl s _ with buf := fun c hc => (hr c).trans (if_neg (Ne.symm hc)) }
    · have hn : (BitVec.ofNat 8 (s.num rs1)).toNat = s.num rs1 := by rw [BitVec.toNat_ofNat]; omega
      simp [State.byte, hr, hn]
  · rename_i hv
    rw [setField_tooBig hv]
    exact failsWith_raise _ s

/-- A setter of a field the frame does not have (R169). -/
theorem setField_absent (rs1 : Reg) (max : Nat) (s : State) (upd : Nat → State) :
    FailsWith .fieldAbsent s (setField rs1 false max s upd) := failsWith_raise _ s

/-- Settles O39: where the kind of frame stores the field (R59), the setter is that of a field the frame has. -/
theorem conditionalSettersFollowTheFrameKind : Obligations.ConditionalSettersFollowTheFrameKind := by
  intro s rs1 hi
  refine ⟨?sa, ?rc, ?bc, ?ec⟩ <;> simp only [exec]
  case sa =>
    rw [execSetSa, hasSa_eq]
    cases s.kind
    case readRequest | singleWrite | writeRequest | writeResponse => exact setField_half hi (by decide) rfl rfl
    all_goals exact setField_absent ..
  case rc =>
    rw [execSetRc, rcOff_eq]
    cases s.kind
    case readRequest | writeRequest | writeResponse => exact setField_half hi (by decide) rfl rfl
    all_goals exact setField_absent ..
  case bc =>
    rw [execSetBc, bcOff_eq]
    cases s.kind
    case readResponse => exact setField_byte hi rfl
    case writeRequest => exact setField_byte hi rfl
    all_goals exact setField_absent ..
  case ec =>
    have h := kind_says s
    rw [execSetEc]
    cases hk : s.kind <;> simp only [hk] at h ⊢
    case exception => rw [h]; exact setField_byte hi rfl
    all_goals rw [h.1]; exact setField_absent ..

end Sys2Proof.Machine
end

section
/-! PROOFS. The statements of 30_encoding.md: decoding what the encoder writes, the words that decode, and what a step
does with a word that is no command. -/

namespace Sys2Proof

/-! ### Each operand form reads back the word that holds its fields (R81, R82, R84) -/

section forms

variable (op : Byte) (rd rs1 rs2 : Reg)

theorem formN_rWord (i : Instr) : formN i (rWord op 0 0 0 false false false) = some i := by simp [formN]

theorem formD_rWord (f : Reg → Instr) : formD f (rWord op rd 0 0 false false false) = some (f rd) := by simp [formD]

theorem formS_rWord (f : Reg → Instr) : formS f (rWord op 0 rs1 0 false false false) = some (f rs1) := by simp [formS]

theorem formDS_rWord (f : Reg → Reg → Instr) :
    formDS f (rWord op rd rs1 0 false false false) = some (f rd rs1) := by simp [formDS]

theorem formSS_rWord (f : Reg → Reg → Instr) :
    formSS f (rWord op 0 rs1 rs2 false false false) = some (f rs1 rs2) := by simp [formSS]

theorem formDSS_rWord (f : Reg → Reg → Reg → Instr) :
    formDSS f (rWord op rd rs1 rs2 false false false) = some (f rd rs1 rs2) := by simp [formDSS]

theorem formOrd_rWord (f : Reg → Reg → Reg → ByteOrder → Instr) (o : ByteOrder) :
    formOrd f (rWord op rd rs1 rs2 o.bit false false) = some (f rd rs1 rs2 o) := by simp [formOrd]

theorem formCalc_rWord (f : Reg → Reg → Reg → Bool → Bool → Instr) (q e : Bool) :
    formCalc f (rWord op rd rs1 rs2 false q e) = some (f rd rs1 rs2 q e) := by simp [formCalc]

theorem formBuild_rWord (f : Bool → Instr) (q : Bool) :
    formBuild f (rWord op 0 0 0 false q false) = some (f q) := by simp [formBuild]

theorem formI_iWord (f : Reg → Half → Instr) (imm : Half) : formI f (iWord op rd imm) = some (f rd imm) := by
  simp [formI]

end forms

/-- A command decodes back where the opcode of its word leads to a form that reads its fields. -/
theorem decode_encode_of {i : Instr} {op : Byte} {g : Word → Option Instr} (ho : opcodeOf (encode i) = op)
    (hg : g (encode i) = some i) (hd : ∀ w, opcodeOf w = op → decode w = g w) : decode (encode i) = some i :=
  (hd _ ho).trans hg

/-- Settles O1: the commands by the form of their row; in each case the opcode leads to that form. -/
theorem decodeReadsBackEncode : Obligations.DecodeReadsBackEncode := by
  intro i
  cases i
  case nop | clrf | reset | crcInit | crcAppend | lrcInit | buildExc =>
    exact decode_encode_of (opcodeOf_rWord ..) (formN_rWord ..) fun w h => by rw [decode, h]; rfl
  case rderr | getTid | getPid | getMlen | getSid | getFc | getSa | getRc | getBc | getEc | getIsexc | getIsreq
      | getHassa | getHasrv | getRtulen | getPdulen | getTcplen | getv | getVoff | crcRd | crcCalc | crcStored | lrcRd
      | expRlen | valRtu | valTcp =>
    exact decode_encode_of (opcodeOf_rWord ..) (formD_rWord ..) fun w h => by rw [decode, h]; rfl
  case setTid | setPid | setMlen | setSid | setFc | setSa | setRc | setBc | setEc | setIsexc | setIsreq | putv | crcUpd
      | lrcUpd =>
    exact decode_encode_of (opcodeOf_rWord ..) (formS_rWord ..) fun w h => by rw [decode, h]; rfl
  case mov | ldb | ldw | ldo =>
    exact decode_encode_of (opcodeOf_rWord ..) (formDS_rWord ..) fun w h => by rw [decode, h]; rfl
  case stb | stw | sto =>
    exact decode_encode_of (opcodeOf_rWord ..) (formSS_rWord ..) fun w h => by rw [decode, h]; rfl
  case unpkU16 | unpkU32 | unpkF32 | unpkStr | unpkOct | packU16 | packU32 | packF32 | packStr | packOct | crcBuf
      | lrcBuf | txtime =>
    exact decode_encode_of (opcodeOf_rWord ..) (formDSS_rWord ..) fun w h => by rw [decode, h]; rfl
  case unpkU8 | packU8 =>
    exact decode_encode_of (opcodeOf_rWord ..) (formOrd_rWord ..) fun w h => by rw [decode, h]; rfl
  case calcRtulen =>
    exact decode_encode_of (opcodeOf_rWord ..) (formCalc_rWord ..) fun w h => by rw [decode, h]; rfl
  case build =>
    exact decode_encode_of (opcodeOf_rWord ..) (formBuild_rWord ..) fun w h => by rw [decode, h]; rfl
  case ldi | ldih =>
    exact decode_encode_of (opcodeOf_iWord ..) (formI_iWord ..) fun w h => by rw [decode, h]; rfl

/-! ### A word is the word of its own fields where its other bits are zero (R81, R82) -/

/-- A part of a range of zero bits. -/
theorem extract_zero_part {w : Word} {a n b m : Nat} (h : w.extractLsb' a n = 0#n) (ha : a ≤ b)
    (hb : b + m ≤ a + n) : w.extractLsb' b m = 0#m := by
  rw [extract_eq_zero_iff] at h ⊢
  intro k hk
  have hz := h (b - a + k) (by omega)
  rwa [show a + (b - a + k) = b + k by omega] at hz

theorem getLsbD_of_extract_zero {w : Word} {a n k : Nat} (h : w.extractLsb' a n = 0#n) (ha : a ≤ k)
    (hk : k < a + n) : w.getLsbD k = false := by
  have hz := (extract_eq_zero_iff w a n).1 h (k - a) (by omega)
  rwa [Nat.add_sub_cancel' ha] at hz

theorem getLsbD_extract (w : Word) {a n k : Nat} (ha : a ≤ k) (hk : k < a + n) :
    (w.extractLsb' a n).getLsbD (k - a) = w.getLsbD k := by
  rw [BitVec.getLsbD_extractLsb', decide_eq_true (by omega), Nat.add_sub_cancel' ha, Bool.true_and]

theorem bit_ordOf (w : Word) : (ordOf w).bit = w.getLsbD 17 := by
  rw [ordOf]
  cases w.getLsbD 17 <;> rfl

theorem rdOf_eq_zero {w : Word} (h : w.extractLsb' 8 3 = 0#3) : rdOf w = 0 := by rw [rdOf, h]; rfl

theorem rs1Of_eq_zero {w : Word} (h : w.extractLsb' 11 3 = 0#3) : rs1Of w = 0 := by rw [rs1Of, h]; rfl

theorem rs2Of_eq_zero {w : Word} (h : w.extractLsb' 14 3 = 0#3) : rs2Of w = 0 := by rw [rs2Of, h]; rfl

/-- The fields of R81 cover the word. -/
theorem rWord_fields {w : Word} (h : w.extractLsb' 20 12 = 0#12) :
    rWord (opcodeOf w) (rdOf w) (rs1Of w) (rs2Of w) (w.getLsbD 17) (reqOf w) (excOf w) = w := by
  refine BitVec.eq_of_getLsbD_eq fun k hk => ?_
  rw [getLsbD_rWord]
  split_ifs with h8 h11 h14 h17 e17 e18 e19
  · exact getLsbD_extract w (a := 0) (by omega) (by omega)
  · exact getLsbD_extract w (n := 3) (by omega) (by omega)
  · exact getLsbD_extract w (n := 3) (by omega) (by omega)
  · exact getLsbD_extract w (n := 3) (by omega) (by omega)
  · rw [e17]
  · rw [e18, reqOf]
  · rw [e19, excOf]
  · exact (getLsbD_of_extract_zero h (by omega) hk).symm

/-- The fields of R82 cover the word. -/
theorem iWord_fields {w : Word} (h : w.extractLsb' 11 5 = 0#5) : iWord (opcodeOf w) (rdOf w) (immOf w) = w := by
  refine BitVec.eq_of_getLsbD_eq fun k hk => ?_
  rw [getLsbD_iWord]
  split_ifs with h8 h11 h16
  · exact getLsbD_extract w (a := 0) (by omega) (by omega)
  · exact getLsbD_extract w (n := 3) (by omega) (by omega)
  · exact (getLsbD_of_extract_zero h (by omega) (by omega)).symm
  · exact getLsbD_extract w (n := 16) (by omega) (by omega)

/-! The same with one more field zero in each lemma, from the highest down. -/

theorem rWord_fields_of_zero18 {w : Word} (h : w.extractLsb' 18 14 = 0#14) :
    rWord (opcodeOf w) (rdOf w) (rs1Of w) (rs2Of w) (w.getLsbD 17) false false = w := by
  have hq : reqOf w = false := getLsbD_of_extract_zero h (by decide) (by decide)
  have he : excOf w = false := getLsbD_of_extract_zero h (by decide) (by decide)
  simpa only [hq, he] using rWord_fields (extract_zero_part h (by decide) (by decide))

theorem rWord_fields_of_zero17 {w : Word} (h : w.extractLsb' 17 15 = 0#15) :
    rWord (opcodeOf w) (rdOf w) (rs1Of w) (rs2Of w) false false false = w := by
  have ho : w.getLsbD 17 = false := getLsbD_of_extract_zero h (by decide) (by decide)
  simpa only [ho] using rWord_fields_of_zero18 (extract_zero_part h (by decide) (by decide))

theorem rWord_fields_of_zero14 {w : Word} (h : w.extractLsb' 14 18 = 0#18) :
    rWord (opcodeOf w) (rdOf w) (rs1Of w) 0 false false false = w := by
  have h2 : rs2Of w = 0 := rs2Of_eq_zero (extract_zero_part h (by decide) (by decide))
  simpa only [h2] using rWord_fields_of_zero17 (extract_zero_part h (by decide) (by decide))

theorem rWord_fields_of_zero11 {w : Word} (h : w.extractLsb' 11 21 = 0#21) :
    rWord (opcodeOf w) (rdOf w) 0 0 false false false = w := by
  have h1 : rs1Of w = 0 := rs1Of_eq_zero (extract_zero_part h (by decide) (by decide))
  simpa only [h1] using rWord_fields_of_zero14 (extract_zero_part h (by decide) (by decide))

theorem rWord_fields_of_zero8 {w : Word} (h : w.extractLsb' 8 24 = 0#24) :
    rWord (opcodeOf w) 0 0 0 false false false = w := by
  have hd : rdOf w = 0 := rdOf_eq_zero (extract_zero_part h (by decide) (by decide))
  simpa only [hd] using rWord_fields_of_zero11 (extract_zero_part h (by decide) (by decide))

/-! ### Masks (R83, R84) -/

/-- The mask of bits a to a + n - 1. -/
def fieldMask (a n : Nat) : Word := (BitVec.allOnes n).setWidth 32 <<< a

theorem getLsbD_fieldMask (a n k : Nat) :
    (fieldMask a n).getLsbD k = (decide (k < 32) && decide (a ≤ k ∧ k < a + n)) := by
  rw [fieldMask, BitVec.getLsbD_shiftLeft, BitVec.getLsbD_setWidth, BitVec.getLsbD_allOnes, Bool.eq_iff_iff]
  simp
  omega

theorem and_fieldMask_eq_zero (w : Word) (a n : Nat) : w &&& fieldMask a n = 0#32 ↔ w.extractLsb' a n = 0#n := by
  rw [extract_eq_zero_iff]
  constructor
  · intro h k hk
    by_cases hlt : a + k < 32
    · have hb : (w &&& fieldMask a n).getLsbD (a + k) = false := by rw [h, BitVec.getLsbD_zero]
      simpa only [BitVec.getLsbD_and, getLsbD_fieldMask, hlt, hk, Nat.le_add_right, Nat.add_lt_add_iff_left, and_self,
        decide_true, Bool.and_true] using hb
    · exact BitVec.getLsbD_of_ge w _ (by omega)
  · intro h
    refine BitVec.eq_of_getLsbD_eq fun k _ => ?_
    rw [BitVec.getLsbD_and, getLsbD_fieldMask, BitVec.getLsbD_zero]
    by_cases hk : a ≤ k ∧ k < a + n
    · have hz := h (k - a) (by omega)
      rw [Nat.add_sub_cancel' hk.1] at hz
      rw [hz, Bool.false_and]
    · rw [decide_eq_false hk, Bool.and_false, Bool.and_false]

theorem and_fieldMask_opcode (w : Word) : w &&& fieldMask 0 8 = (opcodeOf w).setWidth 32 := by
  refine BitVec.eq_of_getLsbD_eq fun k hk => ?_
  rw [BitVec.getLsbD_and, getLsbD_fieldMask, BitVec.getLsbD_setWidth, opcodeOf, BitVec.getLsbD_extractLsb']
  simp [hk, Bool.and_comm]

/-- Under a mask of the opcode and other bits, a word is its own opcode exactly when those other bits are zero. -/
theorem and_opcode_mask_iff {w F : Word} (hF : F &&& fieldMask 0 8 = 0#32) :
    w &&& (fieldMask 0 8 ||| F) = (opcodeOf w).setWidth 32 ↔ w &&& F = 0#32 := by
  rw [BitVec.and_or_distrib_left, and_fieldMask_opcode]
  constructor
  · intro h
    have absorb : ∀ x y : Word, y &&& (x ||| y) = y := fun x y => by ext; simp +contextual
    calc w &&& F = (w &&& F) &&& (w &&& fieldMask 0 8) := by rw [and_fieldMask_opcode, ← h, absorb]
      _ = w &&& w &&& (F &&& fieldMask 0 8) := by ac_rfl
      _ = 0#32 := by rw [hF, BitVec.and_zero]
  · intro h
    rw [h, BitVec.or_zero]

/-! ### The form of a word that decodes -/

/-- `g` reads one of the ten operand forms, `m` is the mask of the bits beside the opcode that the form leaves zero, and
the encoder gives each command `g` can answer the opcode `op` and the form's fields. -/
inductive OperandForm (op : Byte) : Word → (Word → Option Instr) → Prop where
  | plain {i} (he : encode i = rWord op 0 0 0 false false false) : OperandForm op (fieldMask 8 24) (formN i)
  | d {f} (he : ∀ rd, encode (f rd) = rWord op rd 0 0 false false false) :
      OperandForm op (fieldMask 11 21) (formD f)
  | s {f} (he : ∀ rs1, encode (f rs1) = rWord op 0 rs1 0 false false false) :
      OperandForm op (fieldMask 8 3 ||| fieldMask 14 18) (formS f)
  | ds {f} (he : ∀ rd rs1, encode (f rd rs1) = rWord op rd rs1 0 false false false) :
      OperandForm op (fieldMask 14 18) (formDS f)
  | ss {f} (he : ∀ rs1 rs2, encode (f rs1 rs2) = rWord op 0 rs1 rs2 false false false) :
      OperandForm op (fieldMask 8 3 ||| fieldMask 17 15) (formSS f)
  | dss {f} (he : ∀ rd rs1 rs2, encode (f rd rs1 rs2) = rWord op rd rs1 rs2 false false false) :
      OperandForm op (fieldMask 17 15) (formDSS f)
  | ord {f} (he : ∀ rd rs1 rs2 o, encode (f rd rs1 rs2 o) = rWord op rd rs1 rs2 o.bit false false) :
      OperandForm op (fieldMask 18 14) (formOrd f)
  | reqExc {f} (he : ∀ rd rs1 rs2 q e, encode (f rd rs1 rs2 q e) = rWord op rd rs1 rs2 false q e) :
      OperandForm op (fieldMask 17 1 ||| fieldMask 20 12) (formCalc f)
  | req {f} (he : ∀ q, encode (f q) = rWord op 0 0 0 false q false) :
      OperandForm op (fieldMask 8 10 ||| fieldMask 19 13) (formBuild f)
  | imm {f} (he : ∀ rd imm, encode (f rd imm) = iWord op rd imm) :
      OperandForm op (fieldMask 11 5) (formI f)

/-- What the decoder can do, said once: a word that decodes is read by a form whose opcode and mask are a row of the
opcode map, and every word of that opcode is read by the same form. -/
theorem decode_form {w : Word} {i : Instr} (hi : decode w = some i) :
    ∃ m g, g w = some i ∧ OperandForm (opcodeOf w) m g ∧
      ⟨fieldMask 0 8 ||| m, (opcodeOf w).setWidth 32⟩ ∈ opcodeMap ∧
      ∀ v, opcodeOf v = opcodeOf w → decode v = g v := by
  have hop : ∀ n, (opcodeOf w).toNat = n → opcodeOf w = BitVec.ofNat 8 n := fun n h => by simp [← h]
  unfold decode at hi
  split at hi
  on_goal -1 => cases hi
  all_goals
    rename_i h
    rw [hop _ h]
    -- `hi` fixes `g`, `g` the form, and the form its mask.
    exact ⟨_, _, hi, by constructor; intros; rfl, by decide, fun v hv => by rw [decode, hv]; rfl⟩

/-- A form answers the command whose word it has read. -/
theorem OperandForm.encode_eq {m : Word} {g : Word → Option Instr} {w : Word} {i : Instr}
    (hf : OperandForm (opcodeOf w) m g) (hi : g w = some i) : encode i = w := by
  cases hf <;> obtain ⟨hz, ⟨⟩⟩ := Option.ite_none_right_eq_some.1 hi
  case plain he => exact he.trans (rWord_fields_of_zero8 hz)
  case d he => exact (he _).trans (rWord_fields_of_zero11 hz)
  case s he =>
    rw [he]
    simpa only [rdOf_eq_zero hz.1] using rWord_fields_of_zero14 hz.2
  case ds he => exact (he _ _).trans (rWord_fields_of_zero14 hz)
  case ss he =>
    rw [he]
    simpa only [rdOf_eq_zero hz.1] using rWord_fields_of_zero17 hz.2
  case dss he => exact (he _ _ _).trans (rWord_fields_of_zero17 hz)
  case ord he => rw [he, bit_ordOf, rWord_fields_of_zero18 hz]
  case reqExc he =>
    have ho : w.getLsbD 17 = false := getLsbD_of_extract_zero hz.1 (by decide) (by decide)
    rw [he, ← ho, rWord_fields hz.2]
  case req he =>
    obtain ⟨hlow, hhigh⟩ := hz
    have hd : rdOf w = 0 := rdOf_eq_zero (extract_zero_part hlow (by decide) (by decide))
    have h1 : rs1Of w = 0 := rs1Of_eq_zero (extract_zero_part hlow (by decide) (by decide))
    have h2 : rs2Of w = 0 := rs2Of_eq_zero (extract_zero_part hlow (by decide) (by decide))
    have ho : w.getLsbD 17 = false := getLsbD_of_extract_zero hlow (by decide) (by decide)
    have hx : excOf w = false := getLsbD_of_extract_zero hhigh (by decide) (by decide)
    rw [he]
    simpa only [hd, h1, h2, ho, hx] using rWord_fields (extract_zero_part hhigh (by decide) (by decide))
  case imm he => exact (he _ _).trans (iWord_fields hz)

/-- A form reads the words that are their own opcode under its mask. -/
theorem OperandForm.reads_iff {m : Word} {g : Word → Option Instr} {w : Word} (hf : OperandForm (opcodeOf w) m g) :
    (∃ i, g w = some i) ↔ w &&& (fieldMask 0 8 ||| m) = (opcodeOf w).setWidth 32 := by
  cases hf <;> rw [and_opcode_mask_iff (by decide)] <;>
    simp [BitVec.and_or_distrib_left, BitVec.or_eq_zero_iff, and_fieldMask_eq_zero, formN, formD, formS, formDS, formSS,
      formDSS, formOrd, formCalc, formBuild, formI]

/-- Settles O2: the form that reads the word answers the command whose word it is. -/
theorem legalWordIsItsCommandsOnlyWord : Obligations.LegalWordIsItsCommandsOnlyWord := by
  intro w i hi
  obtain ⟨m, g, hg, hf, -, -⟩ := decode_form hi
  exact hf.encode_eq hg

/-! ### The rows of the opcode map (R83) -/

theorem opcodeMap_value_nodup : (opcodeMap.map OpcodeRow.value).Nodup := by decide

theorem opcodeMap_row_opcode :
    ∀ r ∈ opcodeMap, opcodeOf r.mask = BitVec.allOnes 8 ∧ r.value = (opcodeOf r.value).setWidth 32 := by decide

theorem opcodeMap_value_decodes : ∀ r ∈ opcodeMap, (decode r.value).isSome = true := by decide

/-- Every row fixes bit 17 at 0, but for those of UNPK.U8 and PACK.U8 and of the I-format (R82, R86). -/
theorem opcodeMap_mask_ord :
    ∀ r ∈ opcodeMap, opcodeOf r.value ≠ 0x20 → opcodeOf r.value ≠ 0x28 → opcodeOf r.value ≠ 0x01 →
      opcodeOf r.value ≠ 0x02 → r.mask.getLsbD 17 = true := by decide

/-- A word selects a row of its own opcode. -/
theorem opcodeOf_of_selects {r : OpcodeRow} (hr : r ∈ opcodeMap) {w : Word} (h : r.Selects w) :
    opcodeOf r.value = opcodeOf w := by
  calc opcodeOf r.value = opcodeOf (w &&& r.mask) := by rw [h]
    _ = opcodeOf w &&& opcodeOf r.mask := BitVec.extractLsb'_and
    _ = opcodeOf w := by rw [(opcodeMap_row_opcode r hr).1, BitVec.and_allOnes]

theorem row_eq_of_opcode {r r' : OpcodeRow} (hr : r ∈ opcodeMap) (hr' : r' ∈ opcodeMap)
    (h : opcodeOf r.value = opcodeOf r'.value) : r = r' := by
  refine List.inj_on_of_nodup_map opcodeMap_value_nodup hr hr' ?_
  rw [(opcodeMap_row_opcode r hr).2, (opcodeMap_row_opcode r' hr').2, h]

/-- A word that decodes selects the row of its form. -/
theorem selects_row_of_decode {w : Word} {i : Instr} (hi : decode w = some i) : ∃ r ∈ opcodeMap, r.Selects w := by
  obtain ⟨m, g, hg, hf, hm, -⟩ := decode_form hi
  exact ⟨_, hm, hf.reads_iff.1 ⟨i, hg⟩⟩

/-- A word that selects a row decodes: the row's match value does, and so is read by a form, which is that of the row
and reads the word as well. -/
theorem decodes_of_selects {r : OpcodeRow} (hr : r ∈ opcodeMap) {w : Word} (h : r.Selects w) :
    ∃ i, decode w = some i := by
  obtain ⟨i, hi⟩ := Option.isSome_iff_exists.1 (opcodeMap_value_decodes r hr)
  obtain ⟨m, g, -, hf, hm, hd⟩ := decode_form hi
  have ho := opcodeOf_of_selects hr h
  have hv := (opcodeMap_row_opcode r hr).2
  rw [← hv] at hm
  have hmask : fieldMask 0 8 ||| m = r.mask := congrArg OpcodeRow.mask (row_eq_of_opcode hm hr rfl)
  rw [ho] at hf hv
  obtain ⟨j, hj⟩ := hf.reads_iff.2 (by rw [hmask, h, hv])
  exact ⟨j, (hd w ho.symm).trans hj⟩

/-- Settles O3: the words of the rows and those that decode are the same, and rows of one opcode are one row. -/
theorem legalWordsAreTheOpcodeMap : Obligations.LegalWordsAreTheOpcodeMap := by
  refine ⟨rfl, fun w => ⟨fun ⟨_, hi⟩ => selects_row_of_decode hi, fun ⟨r, hr, h⟩ => decodes_of_selects hr h⟩, ?_⟩
  intro w r hr r' hr' h h'
  exact row_eq_of_opcode hr hr' ((opcodeOf_of_selects hr h).trans (opcodeOf_of_selects hr' h').symm)

/-- Settles O5: a word that decodes selects a row, and every other row has bit 17 in its mask, where the match value has
a 0. -/
theorem ordTagReservedOffTheU8Commands : Obligations.OrdTagReservedOffTheU8Commands := by
  intro w hw hunpk hpack hldi hldih
  refine Option.eq_none_iff_forall_ne_some.2 fun i hi => ?_
  obtain ⟨r, hr, h⟩ := selects_row_of_decode hi
  have ho := opcodeOf_of_selects hr h
  have hmask : r.mask.getLsbD 17 = true :=
    opcodeMap_mask_ord r hr (ho ▸ hunpk) (ho ▸ hpack) (ho ▸ hldi) (ho ▸ hldih)
  have hvalue : r.value.getLsbD 17 = false := by
    rw [(opcodeMap_row_opcode r hr).2, BitVec.getLsbD_setWidth, BitVec.getLsbD_of_ge _ 17 (by decide), Bool.and_false]
  rw [← h, BitVec.getLsbD_and, hw, hmask] at hvalue
  cases hvalue

/-! ### Reserved encodings (R85, R87) -/

namespace Machine

/-- Without the LRC engine its commands are refused (R85). -/
theorem failsWith_withLrc {s : State} (hl : s.cfg.hasLrc = false) (k : Outcome) :
    FailsWith .reservedEncoding s (withLrc s k) := by
  rcases withLrc_cases s k with ⟨-, h⟩ | ⟨ht, -⟩
  · rw [h]
    exact failsWith_raise _ s
  · exact absurd (hl.symm.trans ht) Bool.false_ne_true

/-- Settles O7: the step refuses a word that is no command, and `withLrc` refuses the four LRC commands. -/
theorem reservedEncodingIsRefused : Obligations.ReservedEncodingIsRefused := by
  constructor
  · intro s c rest hp hd
    rw [step_of_undecodable hp hd, issued_of_pending hp]
    exact failsWith_raise _ _
  · intro s i hi hl
    cases i
    case lrcInit | lrcUpd | lrcRd | lrcBuf => exact failsWith_withLrc hl _
    all_goals cases hi

end Machine

end Sys2Proof
end

section
/-! PROOFS. The statements of 40_system.md: the one word and the effect of CLRF, and the values of the move commands. -/

namespace Sys2Proof

/-- A word is a command's word exactly where it decodes to that command (R80, R83, R84). -/
theorem decode_eq_some_iff {w : Word} {i : Instr} : decode w = some i ↔ w = encode i := by
  constructor
  · intro h
    exact (legalWordIsItsCommandsOnlyWord w i h).symm
  · rintro rfl
    exact decodeReadsBackEncode i

theorem encode_clrf : encode .clrf = 0x00000004 := by decide

namespace Machine

/-- Settles O21: the word is the encoder's, and the meaning of CLRF is a `finish`, whose Ok leaves the cleared FERR. -/
theorem clrfClearsFerrOnly : Obligations.ClrfClearsFerrOnly := by
  constructor
  · intro w
    rw [decode_eq_some_iff, encode_clrf]
  · intro s
    rfl

/-- The immediate above the low half of a register, as a number (R102). -/
theorem append_lowHalf_toNat (imm : Half) (x : Word) :
    (imm ++ x.extractLsb' 0 16).toNat = 65536 * imm.toNat + x.toNat % 65536 := by
  have hlow : (x.extractLsb' 0 16).toNat = x.toNat % 65536 := by simp
  rw [BitVec.toNat_append, ← Nat.shiftLeft_add_eq_or_of_lt (x.extractLsb' 0 16).isLt, Nat.shiftLeft_eq, hlow]
  omega

/-- Settles O20: NOP finishes in the state it found, and each of the others finishes with one value for x[rd]. -/
theorem moveCommandsGiveTheirValue : Obligations.MoveCommandsGiveTheirValue := by
  intro s rd rs1 imm
  refine ⟨?nop, ?ldi, ?ldih, ?mov, ?rderr⟩
  case nop => exact completes_finish (.refl s _) rfl rfl rfl trivial
  case ldi => exact givesReg_finishReg_of (zextHalf_toNat imm)
  case ldih => exact givesReg_finishReg_of (append_lowHalf_toNat imm (s.getX rd))
  case mov => exact givesReg_finishReg rd (s.getX rs1) s
  case rderr => exact givesReg_finishReg_of (zextByte_toNat s.ferr)

end Machine

end Sys2Proof
end

section
/-! PROOFS. The statements of 41_load_store.md: a load gives the element at the index in x[rs1], a store writes that one
element, and an index outside the space is OutOfRange. -/

namespace Sys2Proof.Machine

/-- A command with an index into a space of `size` elements (R116) completes as it does at the index, or ends with
OutOfRange. -/
theorem completes_withIndex {size : Nat} {rs1 : Reg} {s : State} {k : Nat → Outcome} {f : Footprint}
    {P : State → Prop} (hk : Completes s (k (s.num rs1)) f P) :
    if s.num rs1 < size then Completes s (withIndex size rs1 s k) f P
    else FailsWith .outOfRange s (withIndex size rs1 s k) := by
  split
  · rename_i h
    rwa [withIndex_of_lt h]
  · rename_i h
    rw [withIndex_of_le (Nat.not_lt.1 h)]
    exact failsWith_raise _ s

/-- Settles O24: the value of each load is the element at the index, zero-extended. -/
theorem loadsGiveTheIndexedElement : Obligations.LoadsGiveTheIndexedElement := by
  intro s rd rs1
  simp only [exec, execLdb, execLdw, execLdo]
  refine ⟨completes_withIndex ?ldb, completes_withIndex ?ldw, completes_withIndex ?ldo⟩
  case ldb => exact givesReg_finishReg_of (zextByte_toNat _)
  case ldw => exact givesReg_finishReg_of (zextHalf_toNat _)
  case ldo => exact givesReg_finishReg_of (zextByte_toNat _)

/-! ### One element of a space after the low bits of a register are stored in it (R111, R113, R115) -/

section store

variable {n size : Nat} {m : Mem n} (hm : Memory.wf size m)
include hm

theorem read_write_of_ne {a b : Nat} (h : b ≠ a) (v : BitVec n) :
    Memory.read (Memory.write m a v) b = Memory.read m b := by
  rw [Memory.read_write hm.1, if_neg h.symm]

theorem read_write_lowBits_toNat (a : Nat) (x : Word) :
    (Memory.read (Memory.write m a (x.extractLsb' 0 n)) a).toNat = x.toNat % 2 ^ n := by
  rw [Memory.read_write hm.1, if_pos rfl, BitVec.extractLsb'_toNat, Nat.shiftRight_zero]

end store

/-- Settles O25: each store replaces the one element at the index and finishes; every other element of its space reads
as before, and the rest of the state is not written. -/
theorem storesWriteTheIndexedElement : Obligations.StoresWriteTheIndexedElement := by
  intro s rs1 rs2 hi
  simp only [exec, execStb, execStw, execSto]
  refine ⟨completes_withIndex ?stb, completes_withIndex ?stw, completes_withIndex ?sto⟩
  case stb =>
    refine completes_finish ?_ rfl rfl rfl ?_
    · exact { KeepsBut.refl s _ with buf := fun a ha => read_write_of_ne hi.buf ha _ }
    · exact read_write_lowBits_toNat hi.buf _ _
  case stw =>
    refine completes_finish ?_ rfl rfl rfl ?_
    · exact { KeepsBut.refl s _ with w := fun a ha => read_write_of_ne hi.w ha _ }
    · exact read_write_lowBits_toNat hi.w _ _
  case sto =>
    refine completes_finish ?_ rfl rfl rfl ?_
    · exact { KeepsBut.refl s _ with oct := fun a ha => read_write_of_ne hi.oct ha _ }
    · exact read_write_lowBits_toNat hi.oct _ _

end Sys2Proof.Machine
end

section
/-! PROOFS. The statements of 42_packer.md: the checks of the packer commands in their order, what a read gives and what
a write stores where the checks pass, and the string or vector that comes back after it was packed. -/

namespace Sys2Proof.Machine

/-! ### The checks of a packer command (R121, R137) -/

section checks

-- `short` is the type's check of the span, a proposition where `withSpan` takes a `Bool`.
variable {s : State} {rv rs1 rs2 : Reg} {p : Nat → Bool} {short : Nat → Prop} [DecidablePred short]
  {k : Nat → Nat → Outcome} {kl : Nat → Nat → Nat → Outcome}

theorem failsWith_withSpan_outside (h : s.cfg.nw < s.num rs1 + s.num rs2) :
    FailsWith .outOfRange s (withSpan rs1 rs2 p s k) := by
  rw [withSpan, if_pos h]
  exact failsWith_raise _ s

theorem failsWith_withSpan_tooSmall (h : s.num rs1 + s.num rs2 ≤ s.cfg.nw) (hp : short (s.num rs2)) :
    FailsWith .bufferTooSmall s (withSpan rs1 rs2 (fun span => short span) s k) := by
  rw [withSpan, if_neg (Nat.not_lt.2 h), if_pos (decide_eq_true hp)]
  exact failsWith_raise _ s

theorem completes_withSpan {f : Footprint} {P : State → Prop} (h : s.num rs1 + s.num rs2 ≤ s.cfg.nw)
    (hp : ¬ short (s.num rs2)) (hk : Completes s (k (s.num rs1) (s.num rs2)) f P) :
    Completes s (withSpan rs1 rs2 (fun span => short span) s k) f P := by rwa [withSpan_ok h (decide_eq_false hp)]

theorem failsWith_withSpanLen_outside (h : s.cfg.nw < s.num rs1 + s.num rs2) :
    FailsWith .outOfRange s (withSpanLen rv rs1 rs2 s kl) := by
  rw [withSpanLen, if_pos h]
  exact failsWith_raise _ s

theorem failsWith_withSpanLen_tooLong (h : s.num rs1 + s.num rs2 ≤ s.cfg.nw) (hl : s.cfg.no < s.num rv) :
    FailsWith .outOfRange s (withSpanLen rv rs1 rs2 s kl) := by
  rw [withSpanLen, if_neg (Nat.not_lt.2 h), if_pos hl]
  exact failsWith_raise _ s

theorem failsWith_withSpanLen_tooSmall (h : s.num rs1 + s.num rs2 ≤ s.cfg.nw) (hl : s.num rv ≤ s.cfg.no)
    (hs : 2 * s.num rs2 < s.num rv) : FailsWith .bufferTooSmall s (withSpanLen rv rs1 rs2 s kl) := by
  have hc : ceilDiv (s.num rv) 2 > s.num rs2 := by rw [ceilDiv_two]; omega
  rw [withSpanLen, if_neg (Nat.not_lt.2 h), if_neg (Nat.not_lt.2 hl), if_pos hc]
  exact failsWith_raise _ s

theorem completes_withSpanLen {f : Footprint} {P : State → Prop} (h : s.num rs1 + s.num rs2 ≤ s.cfg.nw)
    (hl : s.num rv ≤ s.cfg.no) (hs : s.num rv ≤ 2 * s.num rs2)
    (hk : Completes s (kl (s.num rs1) (s.num rs2) (s.num rv)) f P) :
    Completes s (withSpanLen rv rs1 rs2 s kl) f P := by
  have hc : ceilDiv (s.num rv) 2 ≤ s.num rs2 := by rw [ceilDiv_two]; omega
  rwa [withSpanLen_ok h hl hc]

theorem status_of_raise {e : Status} {t : State} (h : raise e s = .next t) : t.status = e.code := by
  cases h
  rfl

/-- Where a string or vector command ended with Ok, its operands passed the checks. -/
theorem checks_of_withSpanLen_ok {t : State} (h : withSpanLen rv rs1 rs2 s kl = .next t) (h0 : t.status = 0) :
    s.num rs1 + s.num rs2 ≤ s.cfg.nw ∧ s.num rv ≤ s.cfg.no ∧ s.num rv ≤ 2 * s.num rs2 := by
  have hraise (e : Status) (he : e ≠ .ok) : raise e s ≠ .next t := fun hr =>
    he (e.code_eq_zero.1 ((status_of_raise hr).symm.trans h0))
  rcases withSpanLen_cases rv rs1 rs2 s kl with ⟨-, hc⟩ | ⟨-, -, -, hc⟩ | ⟨hw, ho, hl, -⟩
  · exact absurd (hc.symm.trans h) (hraise _ (by decide))
  · exact absurd (hc.symm.trans h) (hraise _ (by decide))
  · rw [ceilDiv_two] at hl
    exact ⟨hw, ho, by omega⟩

end checks

/-- Settles O26: each packer command is its `withSpan` or `withSpanLen`, and each check of these fails in its turn. -/
theorem packerChecksInOrder : Obligations.PackerChecksInOrder := by
  intro s r rs1 rs2 ord
  simp only [List.forall_mem_cons, List.not_mem_nil, false_imp_iff, implies_true, and_true]
  simp only [exec, execUnpkU8, execUnpkU16, execUnpkU32, execUnpkF32, execUnpkStr, execUnpkOct, execPackU8, execPackU16,
    execPackU32, execPackF32, execPackStr, execPackOct]
  refine ⟨fun h => ?outside, fun h => ⟨fun hs => ?one, fun hs => ?two, fun hs => ?staging, ?str, ?oct⟩⟩
  case outside =>
    have hspan {p k} : FailsWith .outOfRange s (withSpan rs1 rs2 p s k) := failsWith_withSpan_outside h
    have hlen {k} : FailsWith .outOfRange s (withSpanLen r rs1 rs2 s k) := failsWith_withSpanLen_outside h
    exact ⟨hspan, hspan, hspan, hspan, hspan, hspan, hspan, hspan, hspan, hspan, hlen, hlen⟩
  case one | two =>
    refine ⟨?_, ?_, ?_, ?_⟩
    all_goals exact failsWith_withSpan_tooSmall h hs
  case staging => exact ⟨failsWith_withSpan_tooSmall h hs, failsWith_withSpan_tooSmall h hs⟩
  case str | oct => exact ⟨failsWith_withSpanLen_tooLong h, failsWith_withSpanLen_tooSmall h⟩

/-! ### The scalars (R122 to R129) -/

/-- Settles O27: where the slice is long enough, each read finishes with the value of its bytes or words. -/
theorem unpackScalarsGiveTheWords : Obligations.UnpackScalarsGiveTheWords := by
  intro s rd rs1 rs2 h
  simp only [exec, execUnpkU8, execUnpkU16, execUnpkU32, execUnpkF32]
  refine ⟨fun h1 => ?one, fun h2 => ?two⟩
  case one =>
    have hp : ¬ s.num rs2 < 1 := Nat.not_lt.2 h1
    refine ⟨completes_withSpan h hp ?msb, completes_withSpan h hp ?lsb, completes_withSpan h hp ?u16⟩
    case msb => exact givesReg_finishReg_of ((zextByte_toNat _).trans (hiByte_toNat _))
    case lsb => exact givesReg_finishReg_of ((zextByte_toNat _).trans (loByte_toNat _))
    case u16 => exact givesReg_finishReg_of (zextHalf_toNat _)
  case two =>
    have hp : ¬ s.num rs2 < 2 := Nat.not_lt.2 h2
    exact ⟨completes_withSpan h hp (givesReg_finishReg_of (readPair_toNat s _)),
      completes_withSpan h hp (givesReg_finishReg_of (readPair_toNat s _))⟩

section stores

variable {s : State} (hi : s.Inv)
include hi

/-- A command that stores one word in W completes. -/
theorem completes_writeWord {a n : Nat} {v : Half} (hv : v.toNat = n) :
    Completes s (finish { s with w := Memory.write s.w a v }) { w := fun b => b = a } (fun t => t.word a = n) := by
  refine completes_finish ?_ rfl rfl rfl ?_
  · exact { KeepsBut.refl s _ with w := fun b hb => read_write_of_ne hi.w hb v }
  · simp [State.word, Memory.read_write hi.w.1, hv]

/-- A command that stores a 32-bit value in two words of W completes (R128). -/
theorem completes_writePair {a : Nat} (ha : a + 1 < s.cfg.nw) (v : Word) :
    Completes s (finish { s with w := writePair s.w a v }) { w := fun b => b = a ∨ b = a + 1 }
      (fun t => t.word a = v.toNat / 65536 ∧ t.word (a + 1) = v.toNat % 65536) := by
  have hr := read_writePair hi.w ha v
  have hv := v.isLt
  refine completes_finish ?_ rfl rfl rfl ?_
  · refine { KeepsBut.refl s _ with w := fun b hb => ?_ }
    obtain ⟨h0, h1⟩ := not_or.1 hb
    exact (hr b).trans (by rw [if_neg (Ne.symm h1), if_neg (Ne.symm h0)])
  · rw [word_respond, word_respond, State.word, State.word, hr a, hr (a + 1), if_neg (by omega), if_pos rfl, if_pos rfl,
      BitVec.extractLsb'_toNat, BitVec.extractLsb'_toNat, Nat.shiftRight_eq_div_pow]
    exact ⟨by omega, rfl⟩

end stores

/-- Settles O30: where the slice is long enough, each write stores the new word or pair and finishes. -/
theorem packScalarsWriteTheWords : Obligations.PackScalarsWriteTheWords := by
  intro s rv rs1 rs2 hi h
  simp only [List.forall_mem_cons, List.not_mem_nil, false_imp_iff, implies_true, and_true]
  simp only [exec, execPackU8, execPackU16, execPackU32, execPackF32]
  refine ⟨fun h1 => ?one, fun h2 => ?two⟩
  case one =>
    have hp : ¬ s.num rs2 < 1 := Nat.not_lt.2 h1
    have hlow (n : Nat) : ((s.getX rv).extractLsb' 0 n).toNat = s.num rv % 2 ^ n := by simp [State.num]
    refine ⟨completes_withSpan h hp (completes_writeWord hi ?msb),
      completes_withSpan h hp (completes_writeWord hi ?lsb),
      completes_withSpan h hp (completes_writeWord hi (hlow 16))⟩
    case msb => rw [half_toNat, loByte_toNat, hlow]; rfl
    case lsb => rw [half_toNat, hiByte_toNat, hlow]; rfl
  case two =>
    have hp : ¬ s.num rs2 < 2 := Nat.not_lt.2 h2
    exact ⟨completes_withSpan h hp (completes_writePair hi (by omega) _),
      completes_withSpan h hp (completes_writePair hi (by omega) _)⟩

/-! ### Strings and vectors (R130 to R133) -/

section strings

variable {s : State} (hi : s.Inv)
include hi

/-- A command that copies `n` bytes into OCT from 0 and returns their number completes: `f i` is byte i. -/
theorem completes_copyToOct {rd : Reg} {l : List Byte} {n : Nat} {f : Nat → Nat} (hl : l.length = n)
    (hn : n ≤ s.cfg.no) (hf : ∀ i (h : i < l.length), (l[i]).toNat = f i) :
    Completes s (finishReg rd (BitVec.ofNat 32 n) { s with oct := Memory.writeRange s.oct 0 l })
      { reg := some rd, oct := fun a => a < n } (fun t => t.num rd = n ∧ ∀ i < n, t.octet i = f i) := by
  obtain ⟨-, -, -, hno⟩ := hi.cfg
  subst hl
  have hr := Memory.read_writeRange l hi.oct (a := 0) (by omega)
  refine completes_finishReg ?_ rfl rfl rfl ⟨?count, fun i h => ?byte⟩
  · refine { KeepsBut.refl s _ with oct := fun a ha => (hr a).trans (dif_neg ?_) }
    exact fun h => ha (by simpa using h.2)
  case count =>
    rw [State.respond_num, num_setX_self, BitVec.toNat_ofNat]
    omega
  case byte =>
    rw [octet_respond, octet_setX, State.octet, hr i, dif_pos ⟨Nat.zero_le i, h⟩]
    exact hf i h

/-- A command that stores the first `n` words of the packed string or vector of `len` bytes completes (R132, R133). -/
theorem completes_storePacked {base n : Nat} (h : base + n ≤ s.cfg.nw) (len : Nat) :
    Completes s (finish { s with w := Memory.writeRange s.w base ((List.range n).map (packedWord s.oct len)) })
      { w := fun a => base ≤ a ∧ a < base + n }
      (fun t => ∀ k < n, t.word (base + k) = 256 * s.paddedOctet len (2 * k) + s.paddedOctet len (2 * k + 1)) := by
  have hr := Memory.read_writeRange ((List.range n).map (packedWord s.oct len)) hi.w (a := base) (by simpa using h)
  simp only [List.length_map, List.length_range, List.getElem_map, List.getElem_range] at hr
  refine completes_finish ?_ rfl rfl rfl fun k hk => ?_
  · refine { KeepsBut.refl s _ with w := fun a ha => (hr a).trans (dif_neg ?_) }
    exact fun h => ha ⟨h.1, by omega⟩
  · rw [word_respond, State.word, hr (base + k), dif_pos (by omega), packedWord_toNat, Nat.add_sub_cancel_left]

end strings

/-- Settles O28: the bytes copied are those the slice begins with, up to its first zero byte. -/
theorem unpackStringStopsAtTheFirstZero : Obligations.UnpackStringStopsAtTheFirstZero := by
  intro s rd rs1 rs2 hi h ho
  simp only [exec, execUnpkStr]
  have hbyte := spanBytes_getElem s (s.num rs1) (s.num rs2)
  have hlen := spanBytes_length s.w (s.num rs1) (s.num rs2)
  have hpre := stringBytes_prefix (spanBytes s.w (s.num rs1) (s.num rs2))
  have hle := hpre.length_le
  have hstr (i : Nat) (h : i < (stringBytes (spanBytes s.w (s.num rs1) (s.num rs2))).length) :
      (stringBytes (spanBytes s.w (s.num rs1) (s.num rs2)))[i].toNat = s.spanByte (s.num rs1) i := by
    rw [hpre.getElem h]
    exact hbyte i _
  refine ⟨(stringBytes (spanBytes s.w (s.num rs1) (s.num rs2))).length, by omega, fun i h h0 => ?nonzero,
    fun hlt => ?stop, completes_withSpan h (Nat.not_lt.2 ho) ?copy⟩
  case nonzero =>
    rw [← hstr i h] at h0
    exact stringBytes_ne_zero _ (List.getElem_mem h) (BitVec.eq_of_toNat_eq h0)
  case stop => rw [← hbyte _ (by omega), stringBytes_stop _ (by omega)]; rfl
  case copy => exact completes_copyToOct hi rfl (by omega) hstr

/-- Settles O29: the bytes copied are all bytes of the slice. -/
theorem unpackOctetsCopiesTheSlice : Obligations.UnpackOctetsCopiesTheSlice := by
  intro s rd rs1 rs2 hi h ho
  simp only [exec, execUnpkOct]
  refine completes_withSpan h (Nat.not_lt.2 ho) ?_
  exact completes_copyToOct hi (spanBytes_length ..) ho (spanBytes_getElem s _ _)

/-- Settles O31: PACK.STR stores the whole span of the packed words, PACK.OCT the words its length needs. -/
theorem packStringAndOctetsWriteTheSpan : Obligations.PackStringAndOctetsWriteTheSpan := by
  intro s rv rs1 rs2 hi h ho hl
  simp only [exec, execPackStr, execPackOct]
  refine ⟨completes_withSpanLen h ho hl ?str, completes_withSpanLen h ho hl ?oct⟩
  case str => exact completes_storePacked hi h _
  case oct =>
    rw [ceilDiv_two]
    exact completes_storePacked hi (by omega) _

/-! ### Unpacking what was packed (R138) -/

theorem Completes.of_next {s t : State} {o : Outcome} {f : Footprint} {P : State → Prop} (h : Completes s o f P)
    (ho : o = .next t) : KeepsBut s t f ∧ P t := by
  obtain ⟨u, hu, -, hk, hP⟩ := h
  cases hu.symm.trans ho
  exact ⟨hk, hP⟩

theorem Completes.imp {s : State} {o : Outcome} {f : Footprint} {P Q : State → Prop} (h : Completes s o f P)
    (hPQ : ∀ t, P t → Q t) : Completes s o f Q := by
  obtain ⟨t, ho, he, hk, hP⟩ := h
  exact ⟨t, ho, he, hk, hPQ t hP⟩

theorem KeepsBut.num {s t : State} {f : Footprint} (h : KeepsBut s t f) (hf : f.reg = none) (r : Reg) :
    t.num r = s.num r := by
  rw [num_eq, num_eq, h.regs r (by simp [hf])]

theorem paddedOctet_lt (s : State) (len i : Nat) : s.paddedOctet len i < 256 := by
  unfold State.paddedOctet
  split
  · exact octet_lt s i
  · decide

/-- The bytes of words that hold the bytes `f` in pairs, the high byte first (R53). -/
theorem spanByte_of_word {t : State} {base i : Nat} {f : Nat → Nat} (hf : ∀ j, f j < 256)
    (h : t.word (base + i / 2) = 256 * f (2 * (i / 2)) + f (2 * (i / 2) + 1)) : t.spanByte base i = f i := by
  have h0 := hf (2 * (i / 2))
  have h1 := hf (2 * (i / 2) + 1)
  unfold State.spanByte
  split
  · have e : 2 * (i / 2) = i := by omega
    rw [e] at h h0 h1
    omega
  · have e : 2 * (i / 2) + 1 = i := by omega
    rw [e] at h h1
    omega

/-- Settles O33: the bytes of the span after PACK.STR are those packed and then zeros, so that the first zero byte of
the span comes at `len` at the latest. -/
theorem unpackStringReturnsThePackedString : Obligations.UnpackStringReturnsThePackedString := by
  intro s t rv rd rs1 rs2 hi ho ht h0
  have hform := ht
  simp only [exec, execPackStr] at hform
  obtain ⟨hw, hno, hlen⟩ := checks_of_withSpanLen_ok hform h0
  obtain ⟨hkeep, hword⟩ := (packStringAndOctetsWriteTheSpan s rv rs1 rs2 hi hw hno hlen).1.of_next ht
  have hnum := hkeep.num rfl
  have hbytes {i : Nat} (h : i < 2 * s.num rs2) : t.spanByte (s.num rs1) i = s.paddedOctet (s.num rv) i :=
    spanByte_of_word (paddedOctet_lt s _) (hword (i / 2) (by omega))
  obtain ⟨n, hn, hne, hstop, hcopy⟩ := unpackStringStopsAtTheFirstZero t rd rs1 rs2 (exec_keeps_inv hi ht)
    (by rw [hnum, hnum, hkeep.cfg]; exact hw) (by rw [hnum, hkeep.cfg]; exact ho)
  rw [hnum rs2] at hn hstop
  rw [hnum rs1] at hne hstop hcopy
  have hnl : n ≤ s.num rv := by
    by_contra hlt
    have hz := hne (s.num rv) (by omega)
    rw [hbytes (by omega)] at hz
    exact hz (if_neg (Nat.lt_irrefl _))
  have hoct {i : Nat} (h : i < s.num rv) : t.spanByte (s.num rs1) i = s.octet i :=
    (hbytes (by omega)).trans (if_pos h)
  refine ⟨n, hnl, fun i h => ?nonzero, fun h => ?stop, hcopy.imp fun u hu => ⟨hu.1, fun i h => ?copied⟩⟩
  case nonzero => rw [← hoct (by omega)]; exact hne i h
  case stop => rw [← hoct h]; exact hstop (by omega)
  case copied => rw [← hoct (by omega)]; exact hu.2 i h

/-- Settles O34: the words PACK.OCT stored hold the vector and its padding, and the rest of the span is as it was. -/
theorem unpackOctetsReturnsThePackedVector : Obligations.UnpackOctetsReturnsThePackedVector := by
  intro s t rv rd rs1 rs2 hi ho ht h0
  have hform := ht
  simp only [exec, execPackOct] at hform
  obtain ⟨hw, hno, hlen⟩ := checks_of_withSpanLen_ok hform h0
  obtain ⟨hkeep, hword⟩ := (packStringAndOctetsWriteTheSpan s rv rs1 rs2 hi hw hno hlen).2.of_next ht
  have hnum := hkeep.num rfl
  have hcopy := unpackOctetsCopiesTheSlice t rd rs1 rs2 (exec_keeps_inv hi ht)
    (by rw [hnum, hnum, hkeep.cfg]; exact hw) (by rw [hnum, hkeep.cfg]; exact ho)
  rw [hnum rs1, hnum rs2] at hcopy
  refine hcopy.imp fun u hu => ⟨hu.1, fun i h => (hu.2 i h).trans ?_⟩
  split
  · exact spanByte_of_word (paddedOctet_lt s _) (hword (i / 2) (by omega))
  · have hkept : t.word (s.num rs1 + i / 2) = s.word (s.num rs1 + i / 2) :=
      congrArg BitVec.toNat (hkeep.w _ fun hin => by omega)
    rw [State.spanByte, State.spanByte, hkept]

end Sys2Proof.Machine
end

section
/-! PROOFS. The statements of 43_frame_fields.md about the fields every frame has: what their getters give, and what
their setters write. -/

namespace Sys2Proof.Machine

/-! ### The getters of the fields every frame has (R140, R152 to R156, R161, R162, R167) -/

/-- The exception bit as a number (R140). -/
theorem exc_toNat (s : State) : s.exc.toNat = s.byte 7 / 128 := by
  have h7 := byte_lt s 7
  rw [exc_eq]
  by_cases h : 128 ≤ s.byte 7
  · rw [decide_eq_true h, Bool.toNat_true]; omega
  · rw [decide_eq_false h, Bool.toNat_false]; omega

/-- The effective direction as a number (R140). -/
theorem req_toNat (s : State) : s.req.toNat = if s.dir = true ∧ s.byte 7 < 128 then 1 else 0 := by
  rw [State.req, exc_eq]
  by_cases h : 128 ≤ s.byte 7
  · rw [if_neg fun hc => absurd hc.2 (Nat.not_lt.2 h)]; simp [h]
  · cases hd : s.dir <;> simp [h]

/-- A getter of a two-byte field every frame has (R51). -/
theorem givesReg_getHalf (rd : Reg) (s : State) (a : Nat) :
    GivesReg rd (256 * s.byte a + s.byte (a + 1)) s (getField rd (some (be16 s.buf a).toNat) s) := by
  have hhi := byte_lt s a
  have hlo := byte_lt s (a + 1)
  exact givesReg_getField (be16_toNat s a) (by omega)

/-- Settles O35: each getter answers its field of the header, and every field fits 32 bits. -/
theorem headerGettersGiveTheirField : Obligations.HeaderGettersGiveTheirField := by
  intro s rd
  have h4 := byte_lt s 4
  have h5 := byte_lt s 5
  have h6 := byte_lt s 6
  have h7 := byte_lt s 7
  refine ⟨givesReg_getHalf rd s 0, givesReg_getHalf rd s 2, givesReg_getHalf rd s 4, ?sid, ?fc, ?isexc, ?isreq,
    ?tcplen⟩
  case sid => exact givesReg_getField rfl (by omega)
  case fc => exact givesReg_getField (fc7_eq s) (by omega)
  case isexc => exact givesReg_getField (exc_toNat s) (by omega)
  case isreq => exact givesReg_getField (req_toNat s) (by split <;> decide)
  case tcplen => exact givesReg_getField (congrArg (6 + ·) (be16_toNat s 4)) (by omega)

/-! ### The setters of the fields every frame has (R169 to R174, R179, R180) -/

/-- A setter of a field the frame has completes as its effect does, or refuses a value above the bound (R169). -/
theorem completes_setField {rs1 : Reg} {max : Nat} {s : State} {upd : Nat → State} {f : Footprint} {P : State → Prop}
    (hk : s.num rs1 ≤ max → Completes s (finish (upd (s.num rs1))) f P) :
    if s.num rs1 ≤ max then Completes s (setField rs1 true max s upd) f P
    else FailsWith .invalidArgument s (setField rs1 true max s upd) := by
  split
  · rename_i h
    rw [setField_ok h]
    exact hk h
  · rename_i h
    rw [setField_tooBig h]
    exact failsWith_raise _ s

/-- A command that stores one byte in BUF completes. -/
theorem completes_writeByte {s : State} (hi : s.Inv) {a n : Nat} {v : Byte} (hv : v.toNat = n) :
    Completes s (finish { s with buf := Memory.write s.buf a v }) { buf := fun b => b = a }
      (fun t => t.byte a = n) := by
  refine completes_finish ?_ rfl rfl rfl ?_
  · exact { KeepsBut.refl s _ with buf := fun b hb => read_write_of_ne hi.buf hb v }
  · simp [State.byte, Memory.read_write hi.buf.1, hv]

/-- The function-code byte of an exception bit and a seven-bit function code, as a number (R140). -/
theorem append_fc7_toNat (e : BitVec 1) (fc : BitVec 7) : (e ++ fc : Byte).toNat = 128 * e.toNat + fc.toNat := by
  rw [BitVec.toNat_append, ← Nat.shiftLeft_add_eq_or_of_lt fc.isLt, Nat.shiftLeft_eq, Nat.mul_comm]

/-- Settles O38: each setter stores its field and finishes; SET.FC and SET.ISEXC store BUF[7] with the other part of that
byte as it was. -/
theorem headerSettersWriteTheirField : Obligations.HeaderSettersWriteTheirField := by
  intro s rs1 hi
  simp only [List.forall_mem_cons, List.not_mem_nil, false_imp_iff, implies_true, and_true]
  simp only [exec]
  refine ⟨⟨?tid, ?pid, ?mlen⟩, ?sid, completes_setField fun h => ?fc, completes_setField fun h => ?isexc,
    completes_setField fun _ => ?isreq⟩
  case tid | pid | mlen => exact setField_half hi (by decide) rfl rfl
  case sid => exact setField_byte hi rfl
  case fc =>
    refine completes_writeByte hi ?_
    rw [append_fc7_toNat, BitVec.toNat_ofBool, exc_toNat, BitVec.toNat_ofNat, Nat.mod_eq_of_lt (by omega)]
  case isexc =>
    refine completes_writeByte hi ?_
    rw [append_fc7_toNat, BitVec.toNat_ofNat, Nat.mod_eq_of_lt (by omega)]
    exact congrArg _ (fc7_eq s)
  case isreq => exact completes_finish { KeepsBut.refl s _ with dir := nofun } rfl rfl rfl rfl

end Sys2Proof.Machine
end

section
/-! PROOFS. The statements of 44_frame_values.md: what GETV decodes the payload to, how PUTV packs it, and what GETV
returns after PUTV. -/

namespace Sys2Proof.Machine

/-! ### The two commands at the values of the frame in BUF (R151, R192, R193) -/

section values

variable {s : State} {off bc : Nat}

/-- A frame with values has a start and a length of them; its function code is the whole of BUF[7] (R59). -/
theorem parts_of_values (h : s.values = some (off, bc)) :
    s.voff = some off ∧ s.bcOrZero = bc ∧ s.fc7 = s.byte 7 := by
  have hexc : s.exc = false := by
    have hk := kind_says s
    unfold State.values at h
    split at h
    case h_4 => cases h
    all_goals
      rename_i hkind
      rw [hkind] at hk
      exact hk.1
  rw [values_eq, Option.map_eq_some_iff] at h
  obtain ⟨a, ha, hab⟩ := h
  cases hab
  exact ⟨ha, rfl, fc7_of_exc s hexc⟩

theorem execGetv_of_values (rd : Reg) (h : s.values = some (off, bc)) :
    execGetv rd s = finishReg rd (BitVec.ofNat 32 (decodedWords s.buf (s.byte 7) off bc).length)
      { s with w := Memory.writeRange s.w 0 (decodedWords s.buf (s.byte 7) off bc) } := by
  obtain ⟨hoff, rfl, hfc⟩ := parts_of_values h
  rw [execGetv, hoff, ← hfc]

theorem execPutv_of_values {rs1 : Reg} (h : s.values = some (off, bc)) (hn : s.num rs1 ≤ s.cfg.nw) :
    execPutv rs1 s = finish { s with
      buf := Memory.writeRange s.buf off (payload s.cfg.coilTrueRule (s.byte 7) s.w (s.num rs1) bc) } := by
  obtain ⟨hoff, rfl, hfc⟩ := parts_of_values h
  rw [execPutv, hoff, ← hfc]
  exact if_neg (Nat.not_lt.2 hn)

theorem execPutv_of_count {rs1 : Reg} (h : s.values = some (off, bc)) (hn : s.cfg.nw < s.num rs1) :
    execPutv rs1 s = raise .outOfRange s := by
  rw [execPutv, (parts_of_values h).1]
  exact if_pos hn

theorem voff_of_no_values (h : s.values = none) : s.voff = none := by
  rwa [values_eq, Option.map_eq_none_iff] at h

theorem execGetv_of_no_values (rd : Reg) (h : s.values = none) : execGetv rd s = raise .fieldAbsent s := by
  rw [execGetv, voff_of_no_values h]

theorem execPutv_of_no_values (rs1 : Reg) (h : s.values = none) : execPutv rs1 s = raise .fieldAbsent s := by
  rw [execPutv, voff_of_no_values h]

end values

/-! ### Decoding (R190 to R192) -/

/-- A command that copies `n` words into W from 0 and returns their number completes: `f i` is word i. -/
theorem completes_copyToW {s : State} (hi : s.Inv) {rd : Reg} {l : List Half} {n : Nat} {f : Nat → Nat}
    (hl : l.length = n) (hn : n ≤ s.cfg.nw) (h32 : n < 2 ^ 32) (hf : ∀ i (h : i < l.length), (l[i]).toNat = f i) :
    Completes s (finishReg rd (BitVec.ofNat 32 l.length) { s with w := Memory.writeRange s.w 0 l })
      { reg := some rd, w := fun a => a < n } (fun t => t.num rd = n ∧ ∀ i < n, t.word i = f i) := by
  subst hl
  have hr := Memory.read_writeRange l hi.w (a := 0) (by omega)
  refine completes_finishReg ?_ rfl rfl rfl ⟨?count, fun i h => ?word⟩
  · refine { KeepsBut.refl s _ with w := fun a ha => (hr a).trans (dif_neg ?_) }
    exact fun h => ha h.2
  case count => rw [State.respond_num, num_setX_self, BitVec.toNat_ofNat, Nat.mod_eq_of_lt h32]
  case word =>
    rw [word_respond, word_setX, State.word, hr i, dif_pos ⟨Nat.zero_le i, h⟩]
    exact hf i h

section getv

variable {s : State} {off bc : Nat} (hi : s.Inv) (hv : s.values = some (off, bc))
include hi hv

/-- GETV of a bit payload: word i is bit i mod 8 of byte i div 8 (R190). -/
theorem completes_getv_bits (rd : Reg) (hb : BitFunction (s.byte 7)) :
    Completes s (execGetv rd s) { reg := some rd, w := fun a => a < 8 * bc }
      (fun t => t.num rd = 8 * bc ∧ ∀ i < 8 * bc,
        t.word i = if s.byte (off + i / 8) / 2 ^ (i % 8) % 2 = 1 then 0xFF00 else 0) := by
  obtain ⟨hnw, -⟩ := hi.cfg
  obtain ⟨-, hbc, -⟩ := values_bound hv
  have hws : decodedWords s.buf (s.byte 7) off bc = (List.range (8 * bc)).map (bitElement s.buf off) :=
    if_pos ((bitFn_iff _).2 hb)
  rw [execGetv_of_values rd hv, hws]
  refine completes_copyToW hi (by simp) (by omega) (by omega) fun i h => ?_
  rw [List.getElem_map, List.getElem_range, bitElement_toNat]

/-- GETV of a word payload: word k is the big-endian pair at byte 2k (R191). -/
theorem completes_getv_words (rd : Reg) (hb : ¬ BitFunction (s.byte 7)) :
    Completes s (execGetv rd s) { reg := some rd, w := fun a => a < bc / 2 }
      (fun t => t.num rd = bc / 2 ∧ ∀ k < bc / 2,
        t.word k = 256 * s.byte (off + 2 * k) + s.byte (off + 2 * k + 1)) := by
  obtain ⟨hnw, -⟩ := hi.cfg
  obtain ⟨-, hbc, -⟩ := values_bound hv
  have hws : decodedWords s.buf (s.byte 7) off bc = (List.range (bc / 2)).map (wordElement s.buf off) :=
    if_neg fun hc => hb ((bitFn_iff _).1 hc)
  rw [execGetv_of_values rd hv, hws]
  refine completes_copyToW hi (by simp) (by omega) (by omega) fun k h => ?_
  rw [List.getElem_map, List.getElem_range, wordElement_toNat]

end getv

/-- Settles O40: without values GETV is refused, and with values it copies the bits or the pairs of the payload. -/
theorem getvDecodesThePayload : Obligations.GetvDecodesThePayload := by
  intro s rd hi
  simp only [exec]
  split
  · rename_i hv
    rw [execGetv_of_no_values rd hv]
    exact failsWith_raise _ s
  · rename_i off bc hv
    split
    · rename_i hb
      refine (completes_getv_bits hi hv rd hb).imp fun t ⟨hnum, hwords⟩ => ⟨hnum, fun k hk j hj => ?_⟩
      have hdiv : (8 * k + j) / 8 = k := by omega
      have hmod : (8 * k + j) % 8 = j := by omega
      have hword := hwords (8 * k + j) (by omega)
      rwa [hdiv, hmod] at hword
    · rename_i hb
      exact completes_getv_words hi hv rd hb

/-! ### Packing (R190, R191, R193) -/

/-- PUTV of at most NW elements stores the payload bytes and finishes (R193). -/
theorem completes_putv {s : State} (hi : s.Inv) {off bc : Nat} (hv : s.values = some (off, bc)) {rs1 : Reg}
    (hn : s.num rs1 ≤ s.cfg.nw) :
    Completes s (execPutv rs1 s) { buf := fun a => off ≤ a ∧ a < off + bc }
      (fun t => PacksElements s t (s.byte 7) off bc (s.num rs1)) := by
  obtain ⟨-, -, hend⟩ := values_bound hv
  have hr := Memory.read_writeRange (payload s.cfg.coilTrueRule (s.byte 7) s.w (s.num rs1) bc) hi.buf (a := off)
    (by rw [payload_length, bufCap]; omega)
  simp only [payload_length] at hr
  rw [execPutv_of_values hv hn]
  refine completes_finish ?_ rfl rfl rfl (packsElements_of_payload fun i hlt => ?_)
  · refine { KeepsBut.refl s _ with buf := fun a ha => (hr a).trans (dif_neg ?_) }
    exact fun h => ha ⟨h.1, by omega⟩
  · rw [State.respond_buf, hr, dif_pos (by omega)]
    simp only [Nat.add_sub_cancel_left]

/-- Settles O41: without values PUTV is refused whatever the count; with values the count is checked, and then the
payload is stored. -/
theorem putvPacksTheElements : Obligations.PutvPacksTheElements := by
  intro s rs1 hi
  simp only [exec]
  split
  · rename_i hv
    rw [execPutv_of_no_values rs1 hv]
    exact failsWith_raise _ s
  · rename_i off bc hv
    split
    · rename_i hn
      exact completes_putv hi hv hn
    · rename_i hn
      rw [execPutv_of_count hv (Nat.lt_of_not_le hn)]
      exact failsWith_raise _ s

/-! ### Decoding what was packed (R195) -/

/-- Where PUTV ended with Ok, the frame has values and the count passed its check. -/
theorem checks_of_putv_ok {s t : State} {rs1 : Reg} (h : execPutv rs1 s = .next t) (h0 : t.status = 0) :
    (∃ off bc, s.values = some (off, bc)) ∧ s.num rs1 ≤ s.cfg.nw := by
  have hraise (e : Status) (he : e ≠ .ok) : execPutv rs1 s ≠ raise e s := fun hr =>
    he (e.code_eq_zero.1 ((status_of_raise (hr.symm.trans h)).symm.trans h0))
  cases hv : s.values with
  | none => exact absurd (execPutv_of_no_values rs1 hv) (hraise _ (by decide))
  | some p =>
    refine ⟨⟨p.1, p.2, rfl⟩, ?_⟩
    by_contra hn
    exact hraise _ (by decide) (execPutv_of_count hv (Nat.lt_of_not_le hn))

/-- The values stay where they are while DIR and the bytes before them are kept (R59). -/
theorem values_of_kept {s t : State} {off bc : Nat} (hv : s.values = some (off, bc)) (hd : t.dir = s.dir)
    (hb : ∀ a < off, t.byte a = s.byte a) : t.values = some (off, bc) := by
  obtain ⟨hoff, -, -⟩ := values_bound hv
  have hkind : t.kind = s.kind := by rw [State.kind, State.kind, hd, hb 7 (by omega)]
  unfold State.values at hv ⊢
  rw [hkind]
  cases hk : s.kind <;> simp only [hk] at hv ⊢ <;> cases hv
  case readResponse => rw [hb 8 (by decide)]
  case singleWrite => rfl
  case writeRequest => rw [hb 12 (by decide)]

/-- An element from the count on is zero, which counts as clear under both rules (R190, R193). -/
theorem countsAsSet_element (rule : CoilTrueRule) (s : State) (count i : Nat) :
    countsAsSet rule (s.element count i) = true ↔ i < count ∧ countsAsSet rule (s.word i) = true := by
  unfold State.element
  by_cases h : i < count
  · rw [if_pos h]
    exact (and_iff_right h).symm
  · rw [if_neg h]
    cases rule <;> simp [countsAsSet, h]

section packed

variable {s t : State} {fc off bc count : Nat} (h : PacksElements s t fc off bc count)
include h

theorem PacksElements.bit (hb : BitFunction fc) {i : Nat} (hi : i < 8 * bc) :
    t.byte (off + i / 8) / 2 ^ (i % 8) % 2 = 1 ↔
      i < count ∧ countsAsSet s.cfg.coilTrueRule (s.word i) = true := by
  rw [PacksElements, if_pos hb] at h
  rw [h (i / 8) (by omega) (i % 8) (by omega), Nat.div_add_mod, countsAsSet_element]

theorem PacksElements.pair (hb : ¬ BitFunction fc) {k : Nat} (hk : k < bc / 2) :
    256 * t.byte (off + 2 * k) + t.byte (off + 2 * k + 1) = s.element count k := by
  rw [PacksElements, if_neg hb] at h
  have hhi := h (2 * k) (by omega)
  have hlo := h (2 * k + 1) (by omega)
  have hk0 : 2 * k / 2 = k := by omega
  have hk1 : (2 * k + 1) / 2 = k := by omega
  rw [if_pos (by omega), hk0] at hhi
  rw [if_neg (by omega), hk1] at hlo
  rw [hhi, Nat.add_assoc, hlo]
  omega

end packed

/-- Settles O42: PUTV keeps the header, so that GETV reads the same payload and each bit or pair of it is the element
packed there. -/
theorem getvReturnsWhatPutvPacked : Obligations.GetvReturnsWhatPutvPacked := by
  intro s t rs1 rd hi ht h0
  obtain ⟨⟨off, bc, hv⟩, hn⟩ := checks_of_putv_ok ht h0
  obtain ⟨hoff, -, -⟩ := values_bound hv
  obtain ⟨hkeep, hpack⟩ := (completes_putv hi hv hn).of_next ht
  have hit : t.Inv := exec_keeps_inv hi ht
  have hbyte : ∀ a < off, t.byte a = s.byte a := fun a ha =>
    congrArg BitVec.toNat (hkeep.buf a fun h => by omega)
  have hvt : t.values = some (off, bc) := values_of_kept hv (hkeep.dir rfl) hbyte
  have h7 : t.byte 7 = s.byte 7 := hbyte 7 (by omega)
  refine ⟨off, bc, hv, ?_⟩
  simp only [exec]
  split
  · rename_i hb
    refine (completes_getv_bits hit hvt rd (h7 ▸ hb)).imp fun u ⟨hnum, hwords⟩ => ⟨hnum, fun i h => ?_⟩
    rw [hwords i h]
    exact if_congr (hpack.bit hb h) rfl rfl
  · rename_i hb
    refine (completes_getv_words hit hvt rd (h7 ▸ hb)).imp fun u ⟨hnum, hwords⟩ => ⟨hnum, fun k h => ?_⟩
    rw [hwords k h]
    exact hpack.pair hb h

end Sys2Proof.Machine
end

section
/-! PROOFS. The statements of 45_checksum.md: the CRC table and the step made from it, the CRC of a byte sequence, the
commands of the CRC engine and of the LRC engine, and a frame whose CRC was appended. -/

namespace Sys2Proof.Machine

/-! ### The table (R200) -/

/-- The printed table lists the entries of the table in the order of their index. -/
theorem printedCrcTable_eq : printedCrcTable = (List.range 256).map fun i => crcTable (BitVec.ofNat 8 i) := by
  decide +kernel

theorem printedCrcTable_getElem? (i : Byte) : printedCrcTable[i.toNat]? = some (crcTable i) := by
  rw [printedCrcTable_eq, List.getElem?_map, List.getElem?_range i.isLt, Option.map_some, BitVec.ofNat_toNat,
    BitVec.setWidth_eq]

/-- Settles O43: the printed table is the model's, whose entry is by definition eight shifts of its index. -/
theorem crcTableIsTheOnePrinted : Obligations.CrcTableIsTheOnePrinted := by
  refine ⟨?length, fun i => ⟨printedCrcTable_getElem? i, rfl⟩⟩
  rw [printedCrcTable_eq, List.length_map, List.length_range]

/-! ### The step as eight shifts of the polynomial (R200, R201) -/

/-- The shift is linear over exclusive-or. -/
theorem crcShift_xor (u v : Half) : crcShift (u ^^^ v) = crcShift u ^^^ crcShift v := by
  unfold crcShift
  rw [BitVec.getLsbD_xor, BitVec.ushiftRight_xor_distrib]
  cases u.getLsbD 0 <;> cases v.getLsbD 0
  · rfl
  · exact BitVec.xor_assoc ..
  · change u >>> 1 ^^^ v >>> 1 ^^^ crcPoly = u >>> 1 ^^^ crcPoly ^^^ v >>> 1
    ac_rfl
  · change u >>> 1 ^^^ v >>> 1 = u >>> 1 ^^^ crcPoly ^^^ (v >>> 1 ^^^ crcPoly)
    calc u >>> 1 ^^^ v >>> 1 = u >>> 1 ^^^ v >>> 1 ^^^ (crcPoly ^^^ crcPoly) := by
          rw [BitVec.xor_self, BitVec.xor_zero]
      _ = u >>> 1 ^^^ crcPoly ^^^ (v >>> 1 ^^^ crcPoly) := by ac_rfl

theorem crcShift_iterate_xor (n : Nat) (u v : Half) :
    crcShift^[n] (u ^^^ v) = crcShift^[n] u ^^^ crcShift^[n] v := by
  induction n generalizing u v with
  | zero => rfl
  | succ n ih => rw [Function.iterate_succ_apply, crcShift_xor, ih]; rfl

/-- A value whose low bits are zero is shifted out of them and meets no polynomial. -/
theorem crcShift_iterate_of_low_zero (n : Nat) (v : Half) (h : ∀ k < n, v.getLsbD k = false) :
    crcShift^[n] v = v >>> n := by
  induction n generalizing v with
  | zero => exact (BitVec.ushiftRight_zero v).symm
  | succ n ih =>
    have hv : crcShift v = v >>> 1 := by rw [crcShift, h 0 n.succ_pos]; rfl
    have hlow : ∀ k < n, (v >>> 1).getLsbD k = false := fun k hk => by
      rw [BitVec.getLsbD_ushiftRight, h (1 + k) (by omega)]
    rw [Function.iterate_succ_apply, hv, ih _ hlow, ← BitVec.shiftRight_add, Nat.add_comm]

/-- The accumulator with a byte folded in, as its part above the low byte and the index of the table entry. -/
theorem xor_byte_eq (c : Half) (b : Byte) :
    c ^^^ b.setWidth 16 = (c >>> 8) <<< 8 ^^^ (b ^^^ loByte c).setWidth 16 := by
  ext k hk
  by_cases h : k < 8
  · simp [loByte, h, hk, Bool.xor_comm]
  · simp [loByte, h, hk, show 8 + (k - 8) = k by omega]

/-- Settles O44: the shift is linear, the part of the accumulator above the low byte is shifted down as it is, and the
low byte becomes the table entry. -/
theorem crcStepIsEightPolynomialShifts : Obligations.CrcStepIsEightPolynomialShifts := by
  intro c b
  change crcStep c b = crcShift^[8] (c ^^^ b.setWidth 16)
  have hhigh : crcShift^[8] ((c >>> 8) <<< 8) = c >>> 8 := by
    rw [crcShift_iterate_of_low_zero 8 _ fun k hk => by simp [hk]]
    ext k hk
    simpa using BitVec.lt_of_getLsbD
  rw [xor_byte_eq, crcShift_iterate_xor, hhigh]
  rfl

/-! ### The CRC of a byte sequence (R201, R202) -/

/-- The step reads the printed table at the exclusive-or of the byte and the accumulator's low byte (R201). -/
theorem crcStep_eq_printed (c : Half) (b : Byte) :
    crcStep c b = (c >>> 8) ^^^ printedCrcTable.getD (b.toNat ^^^ (c.toNat % 256)) 0 := by
  rw [crcStep, ← loByte_toNat, ← BitVec.toNat_xor, List.getD_eq_getElem?_getD, printedCrcTable_getElem?,
    Option.getD_some]

theorem crc16_append_singleton (l : List Byte) (b : Byte) : crc16 (l ++ [b]) = crcStep (crc16 l) b :=
  List.foldl_concat ..

/-! ### Ends of the checksum commands -/

section ends

variable {s : State} {f : Footprint} {P : State → Prop}

theorem keepsBut_crc (hf : f.crc = true) (c : Half) : KeepsBut s { s with crc := c } f :=
  { KeepsBut.refl s f with crc := fun h => nomatch hf.symm.trans h }

theorem keepsBut_lrc (hf : f.lrc = true) (l : Byte) : KeepsBut s { s with lrc := l } f :=
  { KeepsBut.refl s f with lrc := fun h => nomatch hf.symm.trans h }

/-- A command that leaves a CRC in the register CRC and in x[rd] completes. -/
theorem completes_crcInto (rd : Reg) (c : Half) :
    Completes s (finishReg rd (zextHalf c) { s with crc := c }) { reg := some rd, crc := true }
      (fun t => t.crc = c ∧ t.num rd = c.toNat) := by
  refine completes_finishReg (keepsBut_crc rfl c) rfl rfl rfl ⟨rfl, ?_⟩
  rw [State.respond_num, num_setX_self, zextHalf_toNat]

/-- A command over a range of BUF (R206, R214) completes as it does on the range, or ends with OutOfRange. -/
theorem completes_withBufRange {rs1 rs2 : Reg} {k : Nat → Nat → Outcome}
    (hk : Completes s (k (s.num rs1) (s.num rs2)) f P) :
    if s.num rs1 + s.num rs2 ≤ 300 then Completes s (withBufRange rs1 rs2 s k) f P
    else FailsWith .outOfRange s (withBufRange rs1 rs2 s k) := by
  split
  · rename_i h
    rwa [withBufRange_ok h]
  · rename_i h
    rcases withBufRange_cases rs1 rs2 s k with ⟨-, hr⟩ | ⟨hc, -⟩
    · rw [hr]
      exact failsWith_raise _ s
    · exact absurd hc h

theorem withLrc_of_hasLrc (h : s.cfg.hasLrc = true) (k : Outcome) : withLrc s k = k := by rw [withLrc, if_pos h]

end ends

/-! ### The stream and range commands of the CRC engine (R203 to R206) -/

/-- Settles O45: each command sets CRC or reads it, and the CRC of a longer sequence is one more step. -/
theorem crcStreamCommands : Obligations.CrcStreamCommands := by
  refine ⟨fun s => ?init, fun s rs1 => ?upd, fun s rd => givesReg_finishReg_of (zextHalf_toNat _), rfl,
    fun l b => ?append⟩
  case init => exact completes_finish (keepsBut_crc rfl _) rfl rfl rfl rfl
  case upd =>
    refine completes_finish (keepsBut_crc rfl _) rfl rfl rfl ?_
    have hb : ((s.getX rs1).extractLsb' 0 8).toNat = s.num rs1 % 256 := by
      rw [BitVec.extractLsb'_toNat, Nat.shiftRight_zero]; rfl
    exact (crcStep_eq_printed s.crc _).trans (by rw [hb])
  case append => rw [crc16_append_singleton, crcStep_eq_printed]

/-- Settles O46: on a range inside BUF the command sets CRC and x[rd] to the CRC of the range. -/
theorem crcBufCoversTheRange : Obligations.CrcBufCoversTheRange := by
  intro s rd rs1 rs2
  simp only [exec, execCrcBuf]
  refine completes_withBufRange ((completes_crcInto rd _).imp fun t ⟨hcrc, hx⟩ => ⟨hcrc, ?_⟩)
  rw [hx, hcrc]

/-! ### The CRC of the frame in BUF (R207 to R209, R215) -/

theorem frameCrc_eq (s : State) : s.frameCrc = s.computedCrc := by
  rw [State.frameCrc, rtuLength_eq]
  rfl

theorem storedCrc_toNat (s : State) : s.storedCrc.toNat = s.crcBytes := by
  rw [State.storedCrc, le16_toNat, State.crcPos, rtuLength_eq]
  rfl

section position

variable {s : State} (hk : s.kind ≠ .other)
include hk

theorem two_le_rtuLength : 2 ≤ s.rtuLength := by
  have h := frameLength_ge s hk
  rw [rtuLength_eq]
  omega

theorem crcPos_eq : s.crcPos = s.frameLength + 4 := by
  have h := frameLength_ge s hk
  rw [State.crcPos, rtuLength_eq, rtuBase]
  omega

/-- The stored CRC is the two bytes after the first `frameLength - 2` bytes of the frame. -/
theorem crcBytes_eq : s.crcBytes = s.byte (s.frameLength + 4) + 256 * s.byte (s.frameLength + 5) := by
  rw [← storedCrc_toNat, State.storedCrc, crcPos_eq hk, le16_toNat]

/-- CRC.APPEND (R209) of a frame that has a CRC position. -/
theorem completes_crcAppend (hi : s.Inv) :
    Completes s (execCrcAppend s) { crc := true, buf := fun a => a = s.frameLength + 4 ∨ a = s.frameLength + 5 }
      (fun t => t.crc = s.computedCrc ∧ t.byte (s.frameLength + 4) = s.computedCrc.toNat % 256 ∧
        t.byte (s.frameLength + 5) = s.computedCrc.toNat / 256) := by
  have hlen := frameLength_le s
  have hr := read_setLe16 hi.buf (a := s.frameLength + 4) (by rw [bufCap]; omega) s.computedCrc
  rw [execCrcAppend, withCrcPosition_ok (two_le_rtuLength hk), crcPos_eq hk, frameCrc_eq]
  refine completes_finish ?_ rfl rfl rfl ⟨rfl, ?low, ?high⟩
  · refine { KeepsBut.refl s _ with crc := nofun, buf := fun a ha => (hr a).trans ?_ }
    obtain ⟨hlow, hhigh⟩ := not_or.1 ha
    rw [if_neg (Ne.symm hhigh), if_neg (Ne.symm hlow)]
  case low =>
    refine (congrArg BitVec.toNat (hr _)).trans ?_
    rw [if_neg (by omega), if_pos rfl, loByte_toNat]
  case high =>
    refine (congrArg BitVec.toNat (hr _)).trans ?_
    rw [if_pos rfl, hiByte_toNat]

/-- VAL.RTU (R235) of a frame with a function code and a CRC position compares the two CRCs. -/
theorem completes_valRtu (rd : Reg) (hfc : s.byte 7 % 128 ≠ 0) :
    Completes s (execValRtu rd s) { reg := some rd, crc := true }
      (fun t => t.crc = s.computedCrc ∧ t.num rd = if s.crcBytes = s.computedCrc.toNat then 0 else 3) := by
  have hcommon : s.validateCommon = .ok := by rw [State.validateCommon, fc7_eq, if_neg hfc]
  have hlen := two_le_rtuLength hk
  rw [execValRtu, if_neg (not_not.2 hcommon), if_neg (Nat.not_lt.2 hlen), frameCrc_eq, ← storedCrc_toNat]
  simp only [BitVec.toNat_inj]
  split
  · exact completes_finishReg (keepsBut_crc rfl _) rfl rfl rfl ⟨rfl, by simp [FrameStatus.code]⟩
  · exact completes_finishReg (keepsBut_crc rfl _) rfl rfl rfl ⟨rfl, by simp [FrameStatus.code]⟩

end position

/-- A frame command that needs a CRC position fails in a kind that has none (R207 to R209). -/
theorem failsWith_withCrcPosition {s : State} (hk : s.kind = .other) (k : Outcome) :
    FailsWith .fieldAbsent s (withCrcPosition s k) := by
  rw [withCrcPosition, if_pos (by rwa [rtuLength_eq, frameLength_lt_two])]
  exact failsWith_raise _ s

/-- Settles O47: a frame of kind `other` has length 0, every other kind at least 5, and its CRC is
the last two bytes. -/
theorem frameCrcCommands : Obligations.FrameCrcCommands := by
  intro s rd hi
  simp only [exec]
  split
  · rename_i hk
    exact ⟨failsWith_withCrcPosition hk _, failsWith_withCrcPosition hk _, failsWith_withCrcPosition hk _⟩
  · rename_i hk
    have hlen := two_le_rtuLength hk
    refine ⟨?computed, ?stored, completes_crcAppend hk hi⟩
    case computed =>
      rw [execCrcCalc, withCrcPosition_ok hlen, frameCrc_eq]
      exact completes_crcInto rd _
    case stored =>
      rw [execCrcStored, withCrcPosition_ok hlen]
      exact givesReg_finishReg_of (by rw [zextHalf_toNat, storedCrc_toNat])

/-! ### Validating an appended CRC (R284) -/

section kept

variable {s t : State} (hk : s.kind ≠ .other) (hd : t.dir = s.dir)
  (hb : ∀ a < s.frameLength + 4, t.byte a = s.byte a)
include hk hd hb

theorem kind_of_kept : t.kind = s.kind := by
  have h := frameLength_ge s hk
  rw [State.kind, State.kind, hd, hb 7 (by omega)]

/-- The length of a frame is read from bytes before its CRC (R59). -/
theorem frameLength_of_kept : t.frameLength = s.frameLength := by
  have h := frameLength_ge s hk
  have hkind := kind_of_kept hk hd hb
  have hbc : t.storedBc = s.storedBc := by
    unfold State.storedBc
    rw [hkind]
    split
    case h_1 hr => exact hb 8 (by omega)
    case h_2 hw => exact hb 12 (by simp [State.frameLength, hw, FrameKind.length]; omega)
    case h_3 => rfl
  rw [State.frameLength, State.frameLength, hkind, hbc]

/-- The computed CRC is over bytes before the stored one (R215). -/
theorem computedCrc_of_kept : t.computedCrc = s.computedCrc := by
  have hbytes : t.bytes 6 (s.frameLength - 2) = s.bytes 6 (s.frameLength - 2) :=
    List.map_congr_left fun i hi => BitVec.eq_of_toNat_eq (hb _ (by rw [List.mem_range] at hi; omega))
  rw [State.computedCrc, frameLength_of_kept hk hd hb, hbytes]
  rfl

end kept

/-- Where CRC.APPEND ended with Ok, the frame has a CRC position. -/
theorem kind_of_crcAppend_ok {s t : State} (h : execCrcAppend s = .next t) (h0 : t.status = 0) : s.kind ≠ .other := by
  intro hk
  have ht : t.status = Status.fieldAbsent.code :=
    status_of_raise ((failsWith_raise _ s).trans ((failsWith_withCrcPosition hk _).symm.trans h))
  exact absurd (ht.symm.trans h0) (by decide)

/-- Settles O48: CRC.APPEND keeps every byte the computed CRC depends on and stores that CRC where VAL.RTU reads it. -/
theorem appendedCrcValidates : Obligations.AppendedCrcValidates := by
  intro s t rd hi ht h0 hfc
  have hk := kind_of_crcAppend_ok ht h0
  have hlen := frameLength_ge s hk
  obtain ⟨hkeep, hcrc, hlow, hhigh⟩ := (completes_crcAppend hk hi).of_next ht
  have hd : t.dir = s.dir := hkeep.dir rfl
  have hb : ∀ a < s.frameLength + 4, t.byte a = s.byte a := fun a ha =>
    congrArg BitVec.toNat (hkeep.buf a fun h => by omega)
  have hkt : t.kind ≠ .other := by rwa [kind_of_kept hk hd hb]
  have hcomp : t.computedCrc = t.crc := (computedCrc_of_kept hk hd hb).trans hcrc.symm
  have hbytes : t.crcBytes = t.computedCrc.toNat := by
    rw [crcBytes_eq hkt, frameLength_of_kept hk hd hb, hlow, hhigh, hcomp, hcrc]
    omega
  refine (completes_valRtu hkt rd (by rwa [hb 7 (by omega)])).imp fun u ⟨huc, hux⟩ => ⟨?_, huc.trans hcomp⟩
  rw [hux, if_pos hbytes]

/-! ### The LRC engine (R210 to R214) -/

/-- The sum of the LRC is the sum of the bytes modulo 256 (R210). -/
theorem lrcSum_toNat (l : List Byte) : (lrcSum l).toNat = (l.map BitVec.toNat).sum % 256 := by
  induction l using List.reverseRecOn with
  | nil => rfl
  | append_singleton l b ih =>
    rw [lrcSum, List.foldl_concat, BitVec.toNat_add, ← lrcSum, ih, List.map_append, List.sum_append]
    simp

theorem lrcValue_toNat (sum : Byte) : (lrcValue sum).toNat = (256 - sum.toNat) % 256 := by
  rw [lrcValue, zextByte_toNat, BitVec.toNat_neg]

/-- Settles O49: each command sets LRC to a sum, or gives the two's complement of the sum. -/
theorem lrcCommandsSumTheBytes : Obligations.LrcCommandsSumTheBytes := by
  intro s rd rs1 rs2 hl
  simp only [exec, execLrcInit, execLrcUpd, execLrcRd, execLrcBuf, withLrc_of_hasLrc hl]
  refine ⟨?init, ?upd, givesReg_finishReg_of (lrcValue_toNat _), completes_withBufRange ?buf⟩
  case init => exact completes_finish (keepsBut_lrc rfl _) rfl rfl rfl rfl
  case upd =>
    refine completes_finish (keepsBut_lrc rfl _) rfl rfl rfl ?_
    rw [State.respond_lrc, BitVec.toNat_add, BitVec.extractLsb'_toNat, Nat.shiftRight_zero]
    rfl
  case buf =>
    refine completes_finishReg (keepsBut_lrc rfl _) rfl rfl rfl ⟨lrcSum_toNat _, ?_⟩
    rw [State.respond_num, num_setX_self, lrcValue_toNat]
    rfl

end Sys2Proof.Machine
end

section
/-! PROOFS. The statements of 46_length_time.md: the length of a frame kind, the response length a request predicts, and
the time a frame takes on the line. -/

namespace Sys2Proof.Machine

/-- A command that writes a number of 32 bits to its destination gives that number. -/
theorem givesReg_finishReg_ofNat (rd : Reg) (s : State) {n : Nat} (hn : n < 2 ^ 32) :
    GivesReg rd n s (finishReg rd (BitVec.ofNat 32 n) s) := givesReg_getField rfl hn

/-! ### The length function (R220, R221) -/

/-- On a seven-bit function code the length function, with the exception flag off, is the length column of R59's
table. -/
theorem calcRtuLength_eq_kind_length (r : Bool) {fc : Nat} (hfc : fc < 128) (bc : Nat) :
    calcRtuLength false r fc bc = (kindOf r fc).length bc := by
  have h := kindOf_says r fc
  unfold calcRtuLength
  cases hk : kindOf r fc <;> simp only [hk, KindSays] at h
  case exception => omega
  all_goals simp [h, FrameKind.length]

/-- With the exception flag the length is 5 for either REQ; without it REQ is the direction of the kind (R220, R221). -/
theorem calcRtuLength_flags (req exc : Bool) {fc : Nat} (hfc : fc < 128) (bc : Nat) :
    calcRtuLength exc (req && !exc) fc bc = if exc then 5 else (kindOf req fc).length bc := by
  cases exc
  case true => rfl
  case false => simpa using calcRtuLength_eq_kind_length req hfc bc

/-- Settles O50: operands in range give the length of the kind the flags and the function code name, which is small
enough for the register; others are refused. -/
theorem calcRtulenGivesTheKindsLength : Obligations.CalcRtulenGivesTheKindsLength := by
  intro s rd rs1 rs2 req exc
  simp only [exec, execCalcRtulen]
  by_cases h : s.num rs1 ≤ 0x7F ∧ s.num rs2 ≤ 0xFF
  · have hlen := calcRtuLength_le exc (req && !exc) (s.num rs1) (s.num rs2)
    rw [if_pos h, ← calcRtuLength_flags req exc (by omega), if_neg (by omega)]
    exact givesReg_finishReg_ofNat rd s (by omega)
  · rw [if_neg h, if_pos (by omega)]
    exact failsWith_raise _ s

/-! ### The response a request predicts (R222, R223) -/

/-- The frame in BUF is a request when DIR says so and the exception bit is clear (R140). -/
theorem req_iff (s : State) : s.req = true ↔ s.dir = true ∧ s.byte 7 < 128 := by
  simp [State.req, exc_eq]

/-- A request of the class of the bulk reads is of the kind read request (R59). -/
theorem cls_br_iff_of_req {s : State} (hr : s.req = true) : s.cls = .br ↔ s.kind = .readRequest := by
  have h := kind_says s
  have hexc : s.exc = false := by simpa [exc_eq] using ((req_iff s).1 hr).2
  cases hk : s.kind <;> simp only [hk, hexc, hr, reduceCtorEq, true_and, and_true, and_false] at h <;> simp [h]

/-- The response to a read of `count` registers, two bytes each, is `5 + 2 * count` bytes; to any other request it is
taken to be as long as the request (R222). -/
theorem expectedLength_of_req {s : State} (hr : s.req = true) :
    s.expectedLength = if s.kind = .readRequest then 5 + 2 * (256 * s.byte 10 + s.byte 11) else s.frameLength := by
  rw [State.expectedLength]
  by_cases hc : s.cls = .br
  · have hfc : fcClass s.fc7 = .br := hc
    rw [if_pos hc, if_pos ((cls_br_iff_of_req hr).1 hc), be16_toNat]
    simp [calcRtuLength, hfc, Nat.mul_comm]
  · rw [if_neg hc, if_neg (mt (cls_br_iff_of_req hr).2 hc), rtuLength_eq]

/-- Settles O51: a request predicts a length of at most 131075, which the register holds whole. -/
theorem expRlenPredictsFromTheRequest : Obligations.ExpRlenPredictsFromTheRequest := by
  intro s rd
  simp only [exec, execExpRlen, ← req_iff]
  split
  case isTrue h =>
    have h10 := byte_lt s 10
    have h11 := byte_lt s 11
    have hlen := frameLength_le s
    rw [expectedLength_of_req h]
    exact givesReg_finishReg_ofNat rd s (by split <;> omega)
  case isFalse => exact failsWith_raise _ s

/-! ### The time on the line (R224) -/

/-- Settles O52: the rounded quotient is at most its dividend, so the register holds it whole, and it lies where its
rounding says. -/
theorem txtimeRoundsTheQuotient : Obligations.TxtimeRoundsTheQuotient := by
  intro s rd rs1 rs2
  simp only [exec, execTxtime]
  split
  case isTrue h =>
    obtain ⟨hlen, hbps⟩ := h
    rw [if_neg (by omega), show txBitsPerByte * 1000 = 10000 from rfl]
    have hle := roundDiv_le s.cfg.txtimeRounding (10000 * s.num rs1) hbps
    refine ⟨_, givesReg_finishReg_ofNat rd s (by omega), ?_⟩
    cases s.cfg.txtimeRounding
    case ceil => exact roundDiv_ceil_bounds _ hbps
    case nearest => exact roundDiv_nearest_bounds _ hbps
  case isFalse h =>
    rw [if_pos (by omega)]
    exact failsWith_raise _ s

end Sys2Proof.Machine
end

section
/-! PROOFS. The statements of 47_build_validate.md: what the validators report, the frames the builders write and the
operands they refuse, and what the validators and getters give after a builder. -/

namespace Sys2Proof.Machine

/-! ### The validators (R234 to R236) -/

theorem validateCommon_eq (s : State) :
    s.validateCommon = if s.byte 7 % 128 = 0 then .invalidFunctionCode else .ok := by
  rw [State.validateCommon, fc7_eq]

theorem be16_eq_zero_iff (s : State) (a : Nat) : be16 s.buf a = 0 ↔ 256 * s.byte a + s.byte (a + 1) = 0 := by
  rw [← be16_toNat]
  exact BitVec.toNat_inj.symm

/-- Settles O59: the two refusals in their order, and then the comparison of the CRCs. -/
theorem valRtuReportsTheFrameStatus : Obligations.ValRtuReportsTheFrameStatus := by
  intro s rd
  simp only [exec]
  split
  case isTrue hfc =>
    rw [execValRtu, validateCommon_eq, if_pos hfc, if_pos nofun]
    exact givesReg_finishReg rd 5 s
  case isFalse hfc =>
    split
    case isTrue hk =>
      have hlen : s.rtuLength < 2 := by rwa [rtuLength_eq, frameLength_lt_two]
      rw [execValRtu, validateCommon_eq, if_neg hfc, if_neg (not_not.2 rfl), if_pos hlen]
      exact givesReg_finishReg rd 6 s
    case isFalse hk => exact completes_valRtu hk rd hfc

/-- Settles O60: the three tests in their order, each on the number its bytes hold. -/
theorem valTcpReportsTheFrameStatus : Obligations.ValTcpReportsTheFrameStatus := by
  intro s rd
  simp only [exec, execValTcp, ne_eq, be16_eq_zero_iff, validateCommon_eq]
  by_cases hpid : ¬ 256 * s.byte 2 + s.byte 3 = 0
  · rw [if_pos hpid, if_pos hpid]
    exact givesReg_finishReg rd 1 s
  rw [if_neg hpid, if_neg hpid]
  by_cases hlen : 256 * s.byte 4 + s.byte 5 = 0
  · rw [if_pos hlen, if_pos hlen]
    exact givesReg_finishReg rd 2 s
  rw [if_neg hlen, if_neg hlen]
  by_cases hfc : s.byte 7 % 128 = 0
  · rw [if_pos hfc, if_pos hfc]
    exact givesReg_finishReg rd 5 s
  rw [if_neg hfc, if_neg hfc]
  exact givesReg_finishReg rd 0 s

/-! ### The operands a builder accepts (R230, R232, R233) -/

/-- The function codes with a layout are those of a class other than OT (R141, R230). -/
theorem fcClass_ne_ot_iff (fc : Nat) : fcClass fc ≠ .ot ↔ fc ∈ [1, 2, 3, 4, 5, 6, 15, 16] := by
  simp only [List.mem_cons, List.not_mem_nil, or_false]
  unfold fcClass
  split_ifs <;> simp <;> omega

theorem derivedBc_eq (fc count : Nat) :
    derivedBc fc count = if BitFunction fc then (count + 7) / 8 else 2 * count := by
  rw [derivedBc, ceilDiv_eight]
  exact if_congr (bitFn_iff fc) rfl rfl

/-- The byte count BUILD stores is that of the kind of frame it makes (R231, R232). -/
theorem buildBc_eq (rq : Bool) {fc : Nat} (hfc : fc < 128) (count : Nat) :
    buildBc rq fc count = builtBc rq fc count := by
  have h := kindOf_says rq fc
  unfold buildBc builtBc
  rw [derivedBc_eq]
  cases hk : kindOf rq fc <;> simp only [hk, KindSays] at h
  case exception => omega
  all_goals simp [h]

theorem buildOk_iff (rq : Bool) (s : State) :
    buildOk rq (s.num 1) (s.num 2) (s.num 3) (s.num 4) (s.num 5) = true ↔ BuildAccepts rq s := by
  simp only [buildOk, Bool.and_eq_true, decide_eq_true_eq, bne_iff_ne, fcClass_ne_ot_iff, and_assoc]
  constructor
  · rintro ⟨hsid, h7, hfc, hsa, hcnt, htid, hbc⟩
    exact ⟨hsid, hfc, hsa, hcnt, htid, buildBc_eq rq (fc := s.num 2) (by omega) _ ▸ hbc⟩
  · rintro ⟨hsid, hfc, hsa, hcnt, htid, hbc⟩
    have h7 : s.num 2 ≤ 0x7F := by
      simp only [List.mem_cons, List.not_mem_nil, or_false] at hfc
      omega
    exact ⟨hsid, h7, hfc, hsa, hcnt, htid, (buildBc_eq rq (fc := s.num 2) (by omega) _).symm ▸ hbc⟩

theorem buildExcOk_iff (s : State) :
    buildExcOk (s.num 1) (s.num 2) (s.num 3) (s.num 5) = true ↔ BuildExcAccepts s := by
  simp only [buildExcOk, Bool.and_eq_true, decide_eq_true_eq, and_assoc]

/-- Settles O54: the operands the statement calls accepted are those the model accepts. -/
theorem buildersRefuseBadOperands : Obligations.BuildersRefuseBadOperands := by
  intro s
  simp only [exec]
  refine ⟨fun rq h => ?build, fun h => ?exc⟩
  case build =>
    rw [← buildOk_iff] at h
    rw [execBuild, if_neg h]
    exact failsWith_raise _ s
  case exc =>
    rw [← buildExcOk_iff] at h
    rw [execBuildExc, if_neg h]
    exact failsWith_raise _ s

/-! ### A sealed frame (R231, R233) -/

/-- BUF `m` with the transaction id `tid` and the protocol id 0. -/
def headerImage (m : Mem 8) (tid : Nat) : Mem 8 := setBe16 (setBe16 m 0 (BitVec.ofNat 16 tid)) 2 0

/-- BUF `m` with a frame of the transaction id `tid` but for its CRC: `body` are the bytes from the unit id to the end
of the PDU. -/
def bodyImage (m : Mem 8) (tid : Nat) (body : List Byte) : Mem 8 :=
  setBe16 (Memory.writeRange (headerImage m tid) 6 body) 4 (BitVec.ofNat 16 body.length)

/-- BUF `m` with the whole frame: the CRC of the bytes `body` stands after them, low byte first. -/
def frameImage (m : Mem 8) (tid : Nat) (body : List Byte) : Mem 8 :=
  setLe16 (bodyImage m tid body) (6 + body.length) (crc16 body)

/-- BUF and CRC of `t` hold a frame of the transaction id `tid`, with `body` from the unit id to the end of the PDU. -/
structure Sealed (tid : Nat) (body : List Byte) (t : State) : Prop where
  tid_eq : 256 * t.byte 0 + t.byte 1 = tid
  pid_hi : t.byte 2 = 0
  pid_lo : t.byte 3 = 0
  mlen : 256 * t.byte 4 + t.byte 5 = body.length
  body_eq : ∀ i (h : i < body.length), Memory.read t.buf (6 + i) = body[i]
  crc : t.crc = crc16 body
  crc_lo : t.byte (6 + body.length) = t.crc.toNat % 256
  crc_hi : t.byte (6 + body.length + 1) = t.crc.toNat / 256

theorem ofNat16_toNat {v : Nat} (hv : v ≤ 0xFFFF) : (BitVec.ofNat 16 v).toNat = v := by
  rw [BitVec.toNat_ofNat]
  omega

theorem ofNat8_toNat {v : Nat} (hv : v ≤ 0xFF) : (BitVec.ofNat 8 v).toNat = v := by
  rw [BitVec.toNat_ofNat]
  omega

section image

variable {m : Mem 8} {body : List Byte} (hm : Memory.wf bufCap m) (hl : body.length ≤ 262) (tid : Nat)
include hm

theorem wf_headerImage : Memory.wf bufCap (headerImage m tid) :=
  wf_setBe16 (wf_setBe16 hm (by decide) _) (by decide) _

theorem read_headerImage (a : Nat) : Memory.read (headerImage m tid) a =
    if 2 + 1 = a then loByte 0 else if 2 = a then hiByte 0
    else if 0 + 1 = a then loByte (BitVec.ofNat 16 tid) else if 0 = a then hiByte (BitVec.ofNat 16 tid)
    else Memory.read m a := by
  rw [headerImage, read_setBe16 (wf_setBe16 hm (by decide) _) (by decide), read_setBe16 hm (by decide)]

include hl

theorem wf_unsealed : Memory.wf bufCap (Memory.writeRange (headerImage m tid) 6 body) :=
  Memory.wf_writeRange body (wf_headerImage hm tid) (by rw [bufCap]; omega)

theorem read_bodyImage (a : Nat) : Memory.read (bodyImage m tid body) a =
    if 4 + 1 = a then loByte (BitVec.ofNat 16 body.length) else if 4 = a then hiByte (BitVec.ofNat 16 body.length)
    else if h : 6 ≤ a ∧ a - 6 < body.length then body[a - 6] else Memory.read (headerImage m tid) a := by
  rw [bodyImage, read_setBe16 (wf_unsealed hm hl tid) (by decide),
    Memory.read_writeRange body (wf_headerImage hm tid) (by rw [bufCap]; omega)]

theorem read_bodyImage_header (a : Nat) (ha : a < 6) : Memory.read (bodyImage m tid body) a =
    if 4 + 1 = a then loByte (BitVec.ofNat 16 body.length) else if 4 = a then hiByte (BitVec.ofNat 16 body.length)
    else Memory.read (headerImage m tid) a := by
  rw [read_bodyImage hm hl, dif_neg (by omega)]

theorem read_bodyImage_body (i : Nat) (h : i < body.length) : Memory.read (bodyImage m tid body) (6 + i) = body[i] := by
  rw [read_bodyImage hm hl, if_neg (by omega), if_neg (by omega), dif_pos (by omega)]
  simp only [Nat.add_sub_cancel_left]

theorem read_bodyImage_above (a : Nat) (ha : 6 + body.length ≤ a) :
    Memory.read (bodyImage m tid body) a = Memory.read m a := by
  rw [read_bodyImage hm hl, if_neg (by omega), if_neg (by omega), dif_neg (by omega), read_headerImage hm,
    if_neg (by omega), if_neg (by omega), if_neg (by omega), if_neg (by omega)]

theorem readRange_bodyImage : Memory.readRange (bodyImage m tid body) 6 body.length = body :=
  List.ext_getElem (Memory.length_readRange ..) fun i _ h => by
    simp only [Memory.readRange, List.getElem_map, List.getElem_range, read_bodyImage_body hm hl tid i h]

theorem read_frameImage (a : Nat) : Memory.read (frameImage m tid body) a =
    if 6 + body.length + 1 = a then hiByte (crc16 body) else if 6 + body.length = a then loByte (crc16 body)
    else Memory.read (bodyImage m tid body) a := by
  have hw : Memory.wf bufCap (bodyImage m tid body) := wf_setBe16 (wf_unsealed hm hl tid) (by decide) _
  rw [frameImage, read_setLe16 hw (by rw [bufCap]; omega)]

theorem read_frameImage_of_lt (a : Nat) (ha : a < 6 + body.length) :
    Memory.read (frameImage m tid body) a = Memory.read (bodyImage m tid body) a := by
  rw [read_frameImage hm hl, if_neg (by omega), if_neg (by omega)]

/-- A builder that has written a frame up to its PDU seals it: MBAP length and CRC are those of the bytes written. -/
theorem sealFrame_eq (s : State) :
    sealFrame s (Memory.writeRange (headerImage m tid) 6 body) (body.length + 2) =
      { s with crc := crc16 body, buf := frameImage m tid body } := by
  have hcrc := congrArg crc16 (readRange_bodyImage hm hl tid)
  rw [bodyImage] at hcrc
  simp only [sealFrame, frameImage, bodyImage, rtuBase, Nat.add_sub_cancel, ← Nat.add_assoc, hcrc]

end image

/-- A builder that has written a frame up to its PDU completes (R231, R233): the whole frame is below `body.length + 8`,
and the rest of BUF is as it was. -/
theorem completes_sealFrame {s : State} (hi : s.Inv) (d : Bool) {tid : Nat} (ht : tid ≤ 0xFFFF) {body : List Byte}
    (hl : body.length ≤ 262) :
    Completes s
      (finish (sealFrame { s with dir := d } (Memory.writeRange (headerImage s.buf tid) 6 body) (body.length + 2)))
      { dir := true, crc := true, buf := fun a => a < 6 + (body.length + 2) }
      (fun t => t.dir = d ∧ Sealed tid body t) := by
  have hcrc := read_frameImage hi.buf hl tid
  have hlt := read_frameImage_of_lt hi.buf hl tid
  rw [sealFrame_eq hi.buf hl]
  refine completes_finish ?keeps rfl rfl rfl ⟨rfl, ?sealed⟩
  case keeps =>
    refine { KeepsBut.refl s _ with dir := nofun, crc := nofun, buf := fun a ha => (hcrc a).trans ?_ }
    have ha : 6 + (body.length + 2) ≤ a := Nat.not_lt.1 ha
    rw [if_neg (by omega), if_neg (by omega), read_bodyImage_above hi.buf hl tid a (by omega)]
  case sealed =>
    have hlow (a : Nat) (ha : a < 6) := (hlt a (by omega)).trans (read_bodyImage_header hi.buf hl tid a ha)
    have hhead := read_headerImage hi.buf tid
    have hlen := ofNat16_toNat (show body.length ≤ 0xFFFF by omega)
    refine ⟨?tid_eq, ?pid_hi, ?pid_lo, ?mlen, fun i h => ?body_eq, rfl, ?crc_lo, ?crc_hi⟩
    case tid_eq => simp [State.byte, hlow, hhead, hiByte_toNat, loByte_toNat, ofNat16_toNat ht, Nat.div_add_mod]
    case pid_hi => simp [State.byte, hlow, hhead, hiByte_toNat]
    case pid_lo => simp [State.byte, hlow, hhead, loByte_toNat]
    case mlen => simp [State.byte, hlow, hiByte_toNat, loByte_toNat, hlen, Nat.div_add_mod]
    case body_eq => exact (hlt (6 + i) (by omega)).trans (read_bodyImage_body hi.buf hl tid i h)
    case crc_lo => simp [State.byte, hcrc, loByte_toNat]
    case crc_hi => simp [State.byte, hcrc, hiByte_toNat]

/-- A two-byte field of a frame, the more significant byte first (R51). -/
def fieldBytes (v : Nat) : List Byte := [hiByte (BitVec.ofNat 16 v), loByte (BitVec.ofNat 16 v)]

section bytes

variable {tid : Nat} {pre body post : List Byte} {t : State}

theorem Sealed.bytes_eq (h : Sealed tid body t) : t.bytes 6 body.length = body :=
  List.ext_getElem (by simp [State.bytes]) fun i _ hi => by
    simp only [State.bytes, List.getElem_map, List.getElem_range, h.body_eq i hi]

/-- The bytes of a frame from a place within it on. -/
theorem Sealed.read_part (h : Sealed tid (pre ++ post) t) (i : Nat) (hi : i < post.length) :
    Memory.read t.buf (6 + pre.length + i) = post[i] := by
  rw [Nat.add_assoc, h.body_eq (pre.length + i) (by rw [List.length_append]; omega)]
  simp

theorem Sealed.byte_part {n : Nat} (h : Sealed tid (pre ++ BitVec.ofNat 8 n :: post) t) (hn : n ≤ 0xFF) :
    t.byte (6 + pre.length) = n := by
  refine (congrArg BitVec.toNat (h.read_part 0 (Nat.zero_lt_succ _))).trans ?_
  rw [List.getElem_cons_zero, ofNat8_toNat hn]

theorem Sealed.half_part {v : Nat} (h : Sealed tid (pre ++ (fieldBytes v ++ post)) t) (hv : v ≤ 0xFFFF) :
    256 * t.byte (6 + pre.length) + t.byte (6 + pre.length + 1) = v := by
  have hn := ofNat16_toNat hv
  have hhi : t.byte (6 + pre.length) = v / 256 := by
    refine (congrArg BitVec.toNat (h.read_part 0 (Nat.zero_lt_succ _))).trans ?_
    rw [← hn, ← hiByte_toNat, hn]
    rfl
  have hlo : t.byte (6 + pre.length + 1) = v % 256 := by
    refine (congrArg BitVec.toNat (h.read_part 1 (Nat.succ_lt_succ (Nat.zero_lt_succ _)))).trans ?_
    rw [← hn, ← loByte_toNat, hn]
    rfl
  rw [hhi, hlo, Nat.div_add_mod]

theorem Sealed.packs_part {s : State} {fc count bc : Nat}
    (h : Sealed tid (pre ++ payload s.cfg.coilTrueRule fc s.w count bc) t) :
    PacksElements s t fc (6 + pre.length) bc count :=
  packsElements_of_payload fun i hi => h.read_part i (by rwa [payload_length])

end bytes

/-! ### The frame BUILD.EXC writes (R233) -/

/-- The unit id, the function code with the exception bit, and the exception code. -/
def excBody (s : State) : List Byte :=
  [BitVec.ofNat 8 (s.num 1), 0x80#8 ||| BitVec.ofNat 8 (s.num 2), BitVec.ofNat 8 (s.num 3)]

theorem excBody_length (s : State) : (excBody s).length = 3 := rfl

theorem execBuildExc_of_accepts {s : State} (h : BuildExcAccepts s) :
    execBuildExc s = finish (sealFrame { s with dir := false }
      (Memory.writeRange (headerImage s.buf (s.num 5)) 6 (excBody s)) ((excBody s).length + 2)) := by
  rw [execBuildExc, if_pos ((buildExcOk_iff s).2 h)]
  rfl

/-- The function-code byte of an exception frame as a number (R140, R233). -/
theorem exceptionByte_toNat {fc : Nat} (hfc : fc ≤ 0x7F) : (0x80#8 ||| BitVec.ofNat 8 fc).toNat = 128 + fc := by
  rw [BitVec.toNat_or, ofNat8_toNat (v := fc) (by omega)]
  exact (Nat.two_pow_add_eq_or_of_lt (i := 7) (by omega) 1).symm

/-- A BUILD.EXC of accepted operands seals the frame of its body. -/
theorem completes_buildExc {s : State} (h : BuildExcAccepts s) (hi : s.Inv) :
    Completes s (execBuildExc s) { dir := true, crc := true, buf := fun a => a < 11 }
      (fun t => t.dir = false ∧ Sealed (s.num 5) (excBody s) t) := by
  have ⟨_, _, _, htid⟩ := h
  rw [execBuildExc_of_accepts h]
  exact completes_sealFrame hi false htid (by rw [excBody_length]; decide)

section exception

variable {s t : State} (h : BuildExcAccepts s) (hs : Sealed (s.num 5) (excBody s) t)
include h hs

theorem functionCode_of_sealedExc : t.byte 7 = 128 + s.num 2 := by
  obtain ⟨-, hfc, -⟩ := h
  exact (congrArg BitVec.toNat (hs.read_part (pre := [_]) 0 (Nat.zero_lt_succ _))).trans (exceptionByte_toNat hfc)

theorem exceptionCode_of_sealedExc : t.byte 8 = s.num 3 := by
  obtain ⟨-, -, hec, -⟩ := h
  exact hs.byte_part (pre := [_, _]) (post := []) hec

end exception

/-- Settles O55: the three bytes of the body, in a sealed frame. -/
theorem buildExcWritesTheFrame : Obligations.BuildExcWritesTheFrame := by
  intro s hi h
  simp only [exec]
  refine (completes_buildExc h hi).imp fun t ⟨hd, hs⟩ => ?_
  have ⟨hsid, _⟩ := h
  exact ⟨hd, hs.tid_eq, hs.pid_hi, hs.pid_lo, hs.mlen, hs.byte_part (pre := []) hsid, functionCode_of_sealedExc h hs,
    exceptionCode_of_sealedExc h hs, hs.crc.trans (congrArg crc16 hs.bytes_eq.symm), hs.crc_lo, hs.crc_hi⟩

/-! ### The frame BUILD writes (R230 to R232) -/

/-- A function code with a layout gives a frame that is no exception and has a CRC position (R59, R230). -/
theorem kindOf_layout (rq : Bool) {fc : Nat} (hfc : fc ∈ [1, 2, 3, 4, 5, 6, 15, 16]) :
    fc < 128 ∧ kindOf rq fc ≠ .exception ∧ kindOf rq fc ≠ .other := by
  revert fc
  cases rq <;> decide

theorem kindOf_of_accepts {rq : Bool} {s : State} (h : BuildAccepts rq s) :
    s.num 2 < 128 ∧ kindOf rq (s.num 2) ≠ .exception ∧ kindOf rq (s.num 2) ≠ .other := by
  obtain ⟨-, hfc, -⟩ := h
  exact kindOf_layout rq hfc

theorem not_bitFunction_of_singleWrite {rq : Bool} {fc : Nat} (hk : kindOf rq fc = .singleWrite) :
    ¬ BitFunction fc := by
  have h := kindOf_says rq fc
  rw [hk] at h
  obtain ⟨-, -, hb⟩ := h
  rw [← bitFn_iff, hb]
  exact Bool.false_ne_true

/-- The PDU of each kind of frame after its function code, with the byte count `bc` (R231). -/
def payloadBytes (rule : CoilTrueRule) (w : Mem 16) (rq : Bool) (fc sa cnt bc : Nat) : List Byte :=
  match kindOf rq fc with
  | .readResponse => BitVec.ofNat 8 bc :: payload rule fc w cnt bc
  | .singleWrite => fieldBytes sa ++ payload rule fc w 1 2
  | .writeRequest => fieldBytes sa ++ fieldBytes cnt ++ BitVec.ofNat 8 bc :: payload rule fc w cnt bc
  | _ => fieldBytes sa ++ fieldBytes cnt

/-- BUILD writes these bytes in rising order from 8 on. -/
theorem putPayload_eq (rule : CoilTrueRule) (m : Mem 8) (w : Mem 16) (rq : Bool) {fc : Nat}
    (hfc : fc ∈ [1, 2, 3, 4, 5, 6, 15, 16]) (sa cnt bc : Nat) :
    putPayload rule m w rq fc sa cnt bc = Memory.writeRange m 8 (payloadBytes rule w rq fc sa cnt bc) := by
  obtain ⟨-, hexc, hother⟩ := kindOf_layout rq hfc
  have h := kindOf_says rq fc
  unfold putPayload payloadBytes
  cases hk : kindOf rq fc <;> simp only [hk, KindSays] at h
  case exception => exact absurd hk hexc
  case other => exact absurd hk hother
  case singleWrite =>
    obtain ⟨-, hc, -⟩ := h
    rw [hc]
    rfl
  case readRequest | readResponse | writeRequest | writeResponse =>
    obtain ⟨-, hc, rfl⟩ := h
    rw [hc]
    rfl

/-- The bytes of the frame BUILD writes, from the unit id to the end of the PDU (R231). -/
def buildBody (rq : Bool) (s : State) : List Byte :=
  BitVec.ofNat 8 (s.num 1) :: BitVec.ofNat 8 (s.num 2) ::
    payloadBytes s.cfg.coilTrueRule s.w rq (s.num 2) (s.num 3) (s.num 4) (builtBc rq (s.num 2) (s.num 4))

section build

variable {rq : Bool} {s : State} (h : BuildAccepts rq s)
include h

theorem buildBody_length : (buildBody rq s).length + 2 = builtLength rq (s.num 2) (s.num 4) := by
  obtain ⟨-, hexc, hother⟩ := kindOf_of_accepts h
  unfold buildBody payloadBytes builtLength
  cases hk : kindOf rq (s.num 2)
  case exception => exact absurd hk hexc
  case other => exact absurd hk hother
  case readRequest | singleWrite | writeResponse => simp [fieldBytes, FrameKind.length]
  case readResponse | writeRequest =>
    simp only [List.length_cons, List.length_append, payload_length, fieldBytes, List.length_nil, FrameKind.length]
    omega

/-- The longest frame is a multiple-write request of 255 payload bytes (R232). -/
theorem buildBody_length_le : (buildBody rq s).length ≤ 262 := by
  have hlen := buildBody_length h
  obtain ⟨-, hfc, -, -, -, hbc⟩ := h
  have hle := calcRtuLength_le false rq (s.num 2) (builtBc rq (s.num 2) (s.num 4))
  rw [calcRtuLength_eq_kind_length rq (kindOf_layout rq hfc).1] at hle
  change _ = (kindOf rq (s.num 2)).length (builtBc rq (s.num 2) (s.num 4)) at hlen
  omega

theorem execBuild_of_accepts :
    execBuild rq s = finish (sealFrame { s with dir := rq }
      (Memory.writeRange (headerImage s.buf (s.num 5)) 6 (buildBody rq s)) ((buildBody rq s).length + 2)) := by
  have ⟨_, hfc, _⟩ := h
  have h7 := (kindOf_layout rq hfc).1
  rw [execBuild, if_pos ((buildOk_iff rq s).2 h)]
  simp only [buildBc_eq rq h7, putPayload_eq _ _ _ rq hfc, calcRtuLength_eq_kind_length rq h7, buildBody_length h]
  rfl

/-- A BUILD of accepted operands seals the frame of its body. -/
theorem completes_build (hi : s.Inv) :
    Completes s (execBuild rq s)
      { dir := true, crc := true, buf := fun a => a < 6 + builtLength rq (s.num 2) (s.num 4) }
      (fun t => t.dir = rq ∧ Sealed (s.num 5) (buildBody rq s) t) := by
  have ⟨_, _, _, _, htid, _⟩ := h
  rw [execBuild_of_accepts h, ← buildBody_length h]
  exact completes_sealFrame hi rq htid (buildBody_length_le h)

end build

/-- What `t` holds after its function code where `s` was the state BUILD started in, in the words of the statement. -/
def HoldsPayload (rq : Bool) (s t : State) : Prop :=
  match kindOf rq (s.num 2) with
  | .readResponse =>
    t.byte 8 = builtBc rq (s.num 2) (s.num 4) ∧
      PacksElements s t (s.num 2) 9 (builtBc rq (s.num 2) (s.num 4)) (s.num 4)
  | .singleWrite => 256 * t.byte 8 + t.byte 9 = s.num 3 ∧ 256 * t.byte 10 + t.byte 11 = s.word 0
  | .writeRequest =>
    256 * t.byte 8 + t.byte 9 = s.num 3 ∧ 256 * t.byte 10 + t.byte 11 = s.num 4 ∧
      t.byte 12 = builtBc rq (s.num 2) (s.num 4) ∧
      PacksElements s t (s.num 2) 13 (builtBc rq (s.num 2) (s.num 4)) (s.num 4)
  | _ => 256 * t.byte 8 + t.byte 9 = s.num 3 ∧ 256 * t.byte 10 + t.byte 11 = s.num 4

section built

variable {rq : Bool} {s t : State} (h : BuildAccepts rq s) (hs : Sealed (s.num 5) (buildBody rq s) t)
include h hs

theorem unitId_of_sealed : t.byte 6 = s.num 1 := by
  obtain ⟨hsid, -⟩ := h
  exact hs.byte_part (pre := []) hsid

theorem functionCode_of_sealed : t.byte 7 = s.num 2 := by
  have h7 := (kindOf_of_accepts h).1
  exact hs.byte_part (pre := [_]) (by omega)

theorem holdsPayload_of_sealed : HoldsPayload rq s t := by
  obtain ⟨-, -, hsa, hcnt, -, hbc⟩ := h
  unfold buildBody payloadBytes at hs
  unfold HoldsPayload
  cases hk : kindOf rq (s.num 2) <;> simp only [hk] at hs ⊢
  case readResponse => exact ⟨hs.byte_part (pre := [_, _]) hbc, hs.packs_part (pre := [_, _, _])⟩
  case singleWrite =>
    have hw := not_bitFunction_of_singleWrite hk
    exact ⟨hs.half_part (pre := [_, _]) hsa, (hs.packs_part (pre := [_, _, _, _])).pair hw (k := 0) (by decide)⟩
  case writeRequest =>
    exact ⟨hs.half_part (pre := [_, _]) hsa, hs.half_part (pre := [_, _, _, _]) hcnt,
      hs.byte_part (pre := [_, _, _, _, _, _]) hbc, hs.packs_part (pre := [_, _, _, _, _, _, _])⟩
  all_goals exact ⟨hs.half_part (pre := [_, _]) hsa, hs.half_part (pre := [_, _, _, _]) (post := []) hcnt⟩

end built

/-- Settles O53: the bytes of the body, in a sealed frame. -/
theorem buildWritesTheFrame : Obligations.BuildWritesTheFrame := by
  intro s rq hi h
  simp only [exec]
  refine (completes_build h hi).imp fun t ⟨hd, hs⟩ => ?_
  have hlen := buildBody_length h
  have hpdu : builtLength rq (s.num 2) (s.num 4) - 2 = (buildBody rq s).length := by omega
  have hlo : builtLength rq (s.num 2) (s.num 4) + 4 = 6 + (buildBody rq s).length := by omega
  have hhi : builtLength rq (s.num 2) (s.num 4) + 5 = 6 + (buildBody rq s).length + 1 := by omega
  rw [hpdu, hlo, hhi, hs.bytes_eq]
  exact ⟨hd, hs.tid_eq, hs.pid_hi, hs.pid_lo, hs.mlen, unitId_of_sealed h hs, functionCode_of_sealed h hs,
    holdsPayload_of_sealed h hs, hs.crc, hs.crc_lo, hs.crc_hi⟩

/-! ### A built frame validates (R237) -/

theorem FailsWith.status_eq {e : Status} {s t : State} {o : Outcome} (h : FailsWith e s o) (ho : o = .next t) :
    t.status = e.code := status_of_raise ((failsWith_raise e s).trans (h.symm.trans ho))

/-- A BUILD that ended with Ok had accepted operands and sealed its frame. -/
theorem sealed_of_build_ok {rq : Bool} {s t : State} (hi : s.Inv) (ht : exec (.build rq) s = .next t)
    (h0 : t.status = 0) :
    BuildAccepts rq s ∧ t.dir = rq ∧ Sealed (s.num 5) (buildBody rq s) t := by
  have h : BuildAccepts rq s := by
    by_contra hn
    have he := ((buildersRefuseBadOperands s).1 rq hn).status_eq ht
    exact absurd (he.symm.trans h0) (by decide)
  exact ⟨h, ((completes_build h hi).of_next ht).2⟩

/-- A BUILD.EXC that ended with Ok had accepted operands and sealed its frame. -/
theorem sealed_of_buildExc_ok {s t : State} (hi : s.Inv) (ht : exec .buildExc s = .next t) (h0 : t.status = 0) :
    BuildExcAccepts s ∧ Sealed (s.num 5) (excBody s) t := by
  have h : BuildExcAccepts s := by
    by_contra hn
    have he := ((buildersRefuseBadOperands s).2 hn).status_eq ht
    exact absurd (he.symm.trans h0) (by decide)
  obtain ⟨-, -, hs⟩ := (completes_buildExc h hi).of_next ht
  exact ⟨h, hs⟩

/-- Both validators accept a sealed frame whose bytes give it the length it was sealed with (R215, R235, R236). -/
theorem Sealed.validates {tid : Nat} {body : List Byte} {t : State} (hs : Sealed tid body t)
    (hlen : t.frameLength = body.length + 2) (hk : t.kind ≠ .other) (hfc : t.byte 7 % 128 ≠ 0) (rd : Reg) :
    Completes t (exec (.valRtu rd) t) { reg := some rd, crc := true } (fun u => u.num rd = 0) ∧
      GivesReg rd 0 t (exec (.valTcp rd) t) := by
  have hge := frameLength_ge t hk
  have hcomp : t.computedCrc = t.crc := by
    rw [State.computedCrc, hlen, Nat.add_sub_cancel, hs.bytes_eq, hs.crc]
  have hcrc : t.crcBytes = t.computedCrc.toNat := by
    rw [State.crcBytes, hlen, Nat.add_sub_cancel, hs.crc_lo, hs.crc_hi, hcomp]
    omega
  have hpid : 256 * t.byte 2 + t.byte 3 = 0 := by rw [hs.pid_hi, hs.pid_lo]
  have hmlen : 256 * t.byte 4 + t.byte 5 ≠ 0 := by rw [hs.mlen]; omega
  refine ⟨(completes_valRtu hk rd hfc).imp fun u ⟨_, hu⟩ => hu.trans (if_pos hcrc), ?_⟩
  have htcp := valTcpReportsTheFrameStatus t rd
  rwa [if_neg (not_not.2 hpid), if_neg hmlen, if_neg hfc] at htcp

section built

variable {rq : Bool} {s t : State} (h : BuildAccepts rq s) (hd : t.dir = rq)
  (hs : Sealed (s.num 5) (buildBody rq s) t)
include h hd hs

theorem kind_of_built : t.kind = kindOf rq (s.num 2) := by
  rw [State.kind, hd, functionCode_of_sealed h hs]

theorem frameLength_of_built : t.frameLength = (buildBody rq s).length + 2 := by
  have hp := holdsPayload_of_sealed h hs
  rw [buildBody_length h, State.frameLength, State.storedBc, kind_of_built h hd hs, builtLength]
  unfold HoldsPayload at hp
  cases hk : kindOf rq (s.num 2) <;> simp only [hk] at hp ⊢
  case readResponse =>
    obtain ⟨hbc, -⟩ := hp
    rw [hbc]
  case writeRequest =>
    obtain ⟨-, -, hbc, -⟩ := hp
    rw [hbc]
  all_goals rfl

end built

theorem kind_of_builtExc {s t : State} (h : BuildExcAccepts s) (hs : Sealed (s.num 5) (excBody s) t) :
    t.kind = .exception := by
  have h7 := functionCode_of_sealedExc h hs
  exact if_pos (by omega)

/-- Settles O56: each builder seals a frame of the length its bytes say, and BUILD.EXC leaves its operands where the
getters read them. -/
theorem builtFrameValidates : Obligations.BuiltFrameValidates := by
  intro s t rd hi h0
  refine ⟨fun rq ht => ?build, fun ht => ?exc⟩
  case build =>
    obtain ⟨h, hd, hs⟩ := sealed_of_build_ok hi ht h0
    have hkind := kind_of_built h hd hs
    have hlen := frameLength_of_built h hd hs
    have h7 := functionCode_of_sealed h hs
    obtain ⟨-, hfc, -⟩ := h
    obtain ⟨hlt, -, hother⟩ := kindOf_layout rq hfc
    have hne : s.num 2 ≠ 0 := fun e => absurd hfc (by rw [e]; decide)
    exact hs.validates hlen (hkind ▸ hother) (by omega) rd
  case exc =>
    obtain ⟨h, hs⟩ := sealed_of_buildExc_ok hi ht h0
    have hkind := kind_of_builtExc h hs
    have hlen : t.frameLength = (excBody s).length + 2 := by rw [State.frameLength, hkind]; rfl
    have h7 := functionCode_of_sealedExc h hs
    obtain ⟨-, -, -, -, gfc, gisexc, -⟩ := headerGettersGiveTheirField t rd
    obtain ⟨-, -, -, gec, -⟩ := conditionalGettersFollowTheFrameKind t rd
    rw [hkind, exceptionCode_of_sealedExc h hs] at gec
    obtain ⟨-, hfc, -⟩ := h
    have hmod : t.byte 7 % 128 = s.num 2 := by omega
    have hdiv : t.byte 7 / 128 = 1 := by omega
    rw [hmod] at gfc
    rw [hdiv] at gisexc
    exact ⟨fun hne => hs.validates hlen (by rw [hkind]; decide) (by rwa [hmod]) rd, gisexc, gfc, gec⟩

/-! ### A built frame reads back (R239) -/

/-- GETV of a payload that packs `count` elements of `s`, in the bytes BUILD derives for them (R232). -/
theorem completes_getv_packed {s t : State} {fc off bc count : Nat} (hi : t.Inv) (hfc : t.byte 7 = fc)
    (hbc : bc = if BitFunction fc then (count + 7) / 8 else 2 * count) (hv : t.values = some (off, bc))
    (hp : PacksElements s t fc off bc count) (rd : Reg) :
    if BitFunction fc then
      Completes t (execGetv rd t) { reg := some rd, w := fun a => a < 8 * ((count + 7) / 8) }
        (fun u => u.num rd = 8 * ((count + 7) / 8) ∧ ∀ i < 8 * ((count + 7) / 8), u.word i =
          if i < count ∧ countsAsSet s.cfg.coilTrueRule (s.word i) = true then 0xFF00 else 0)
    else
      Completes t (execGetv rd t) { reg := some rd, w := fun a => a < count }
        (fun u => u.num rd = count ∧ ∀ k < count, u.word k = s.word k) := by
  subst hfc
  split
  case isTrue hb =>
    rw [if_pos hb] at hbc
    subst hbc
    refine (completes_getv_bits hi hv rd hb).imp fun u ⟨hnum, hwords⟩ => ⟨hnum, fun i h => ?_⟩
    rw [hwords i h]
    exact if_congr (hp.bit hb h) rfl rfl
  case isFalse hb =>
    have hcount : bc / 2 = count := by rw [hbc, if_neg hb]; omega
    subst hcount
    refine (completes_getv_words hi hv rd hb).imp fun u ⟨hnum, hwords⟩ => ⟨hnum, fun k h => ?_⟩
    rw [hwords k h, hp.pair hb h]
    exact if_pos h

/-- The kinds that store a byte count store the derived one (R232). -/
theorem builtBc_of_stored {rq : Bool} {fc : Nat} (hk : kindOf rq fc = .readResponse ∨ kindOf rq fc = .writeRequest)
    (count : Nat) : builtBc rq fc count = if BitFunction fc then (count + 7) / 8 else 2 * count := by
  rcases hk with hk | hk <;> rw [builtBc, hk]

section built

variable {rq : Bool} {s t : State} (h : BuildAccepts rq s) (hd : t.dir = rq)
  (hs : Sealed (s.num 5) (buildBody rq s) t) (rd : Reg)
include h hd hs

/-- GET.SA after BUILD: the start address, but in a read response, which has none. -/
theorem getSa_of_built :
    GivesField rd (if kindOf rq (s.num 2) = .readResponse then none else some (s.num 3)) t (exec (.getSa rd) t) := by
  have hp := holdsPayload_of_sealed h hs
  obtain ⟨hsa, -⟩ := conditionalGettersFollowTheFrameKind t rd
  rw [kind_of_built h hd hs] at hsa
  obtain ⟨-, hexc, hother⟩ := kindOf_of_accepts h
  unfold HoldsPayload at hp
  cases hk : kindOf rq (s.num 2) <;> simp only [hk] at hp hsa
  case exception => exact absurd hk hexc
  case other => exact absurd hk hother
  case readResponse => exact hsa
  all_goals rwa [hp.1] at hsa

/-- GET.RC after BUILD: the count, but 1 in a single write and the coils of whole bytes in a bit-read response. -/
theorem getRc_of_built :
    GivesField rd (match kindOf rq (s.num 2) with
      | .singleWrite => some 1
      | .readResponse => some (if BitFunction (s.num 2) then 8 * ((s.num 4 + 7) / 8) else s.num 4)
      | _ => some (s.num 4)) t (exec (.getRc rd) t) := by
  have hp := holdsPayload_of_sealed h hs
  have h7 := functionCode_of_sealed h hs
  obtain ⟨-, hrc, -⟩ := conditionalGettersFollowTheFrameKind t rd
  rw [kind_of_built h hd hs] at hrc
  obtain ⟨-, hexc, hother⟩ := kindOf_of_accepts h
  unfold HoldsPayload at hp
  cases hk : kindOf rq (s.num 2) <;> simp only [hk] at hp hrc ⊢
  case exception => exact absurd hk hexc
  case other => exact absurd hk hother
  case readRequest | writeResponse => rwa [hp.2] at hrc
  case singleWrite => exact hrc
  case writeRequest =>
    obtain ⟨-, hcount, -⟩ := hp
    rwa [hcount] at hrc
  case readResponse =>
    rw [h7, hp.1, builtBc_of_stored (.inl hk)] at hrc
    by_cases hb : BitFunction (s.num 2)
    · simp only [if_pos hb] at hrc ⊢
      rwa [Nat.mul_comm] at hrc
    · simp only [if_neg hb] at hrc ⊢
      rwa [Nat.mul_div_cancel_left _ Nat.two_pos] at hrc

/-- Where BUILD put the values, in the kinds that carry any (R59). -/
theorem values_of_built : t.values = match kindOf rq (s.num 2) with
    | .readResponse => some (9, builtBc rq (s.num 2) (s.num 4))
    | .singleWrite => some (10, 2)
    | .writeRequest => some (13, builtBc rq (s.num 2) (s.num 4))
    | _ => none := by
  have hp := holdsPayload_of_sealed h hs
  rw [State.values, kind_of_built h hd hs]
  unfold HoldsPayload at hp
  cases hk : kindOf rq (s.num 2) <;> simp only [hk] at hp ⊢
  case readResponse =>
    obtain ⟨hbc, -⟩ := hp
    rw [hbc]
  case writeRequest =>
    obtain ⟨-, -, hbc, -⟩ := hp
    rw [hbc]

end built

/-- Settles O58: the header, the address and the count read back from the bytes of the frame, and GETV decodes the
payload where the kind carries one. -/
theorem builtFrameReadsBack : Obligations.BuiltFrameReadsBack := by
  intro s t rq rd hi ht h0
  obtain ⟨h, hd, hs⟩ := sealed_of_build_ok hi ht h0
  have hit : t.Inv := exec_keeps_inv hi ht
  have h7 := functionCode_of_sealed h hs
  have hlt := (kindOf_of_accepts h).1
  obtain ⟨gtid, gpid, -, gsid, gfc, gisexc, gisreq, -⟩ := headerGettersGiveTheirField t rd
  rw [hs.tid_eq] at gtid
  rw [hs.pid_hi, hs.pid_lo] at gpid
  rw [unitId_of_sealed h hs] at gsid
  rw [h7, Nat.mod_eq_of_lt hlt] at gfc
  rw [h7, Nat.div_eq_of_lt hlt] at gisexc
  simp only [h7, hd, hlt, and_true] at gisreq
  refine ⟨gsid, gfc, gtid, gpid, gisexc, gisreq, getSa_of_built h hd hs rd, getRc_of_built h hd hs rd, ?getv⟩
  case getv =>
    have hp := holdsPayload_of_sealed h hs
    have hv := values_of_built h hd hs
    unfold HoldsPayload at hp
    simp only [exec]
    cases hk : kindOf rq (s.num 2) <;> simp only [hk] at hp hv ⊢
    case readResponse =>
      obtain ⟨-, hpack⟩ := hp
      exact completes_getv_packed hit h7 (builtBc_of_stored (.inl hk) _) hv hpack rd
    case writeRequest =>
      obtain ⟨-, -, -, hpack⟩ := hp
      exact completes_getv_packed hit h7 (builtBc_of_stored (.inr hk) _) hv hpack rd
    case singleWrite =>
      obtain ⟨-, hword⟩ := hp
      have hw := not_bitFunction_of_singleWrite hk
      exact (completes_getv_words hit hv rd (h7 ▸ hw)).imp fun u ⟨hnum, hwords⟩ =>
        ⟨hnum, (hwords 0 Nat.one_pos).trans hword⟩
    all_goals
      rw [execGetv_of_no_values rd hv]
      exact failsWith_raise _ t

end Sys2Proof.Machine
end

section
/-! PROOFS. The statements of 60_exceptions.md and 70_reset_and_hazards.md: which statuses a command can fail with, what
a failure leaves, the response to a command word, the state after reset, and the end of a run. -/

namespace Sys2Proof.Machine

/-! ### Failing (R251, R256) -/

/-- Of the three ends, only the failure has a status other than Ok, one that the command's row of R251 lists. -/
theorem Ends.failsWith {i : Instr} {s t : State} {o : Outcome} (h : Ends i s o) (ho : o = .next t)
    (hs : t.status ≠ 0) : ∃ e ∈ failureStatuses s.cfg i, e ≠ .ok ∧ t.status = e.code ∧ FailsWith e s o := by
  cases h with
  | failed e ne mem => exact ⟨e, mem, ne, status_of_raise ho, failsWith_raise e s⟩
  | done s' => cases ho; exact absurd rfl hs
  | doneReg rd v s' => cases ho; exact absurd rfl hs

/-- Every command, CLRF and RESET among them, which never fail. -/
theorem exec_failsWith {i : Instr} {s t : State} (ht : exec i s = .next t) (hs : t.status ≠ 0) :
    ∃ e ∈ failureStatuses s.cfg i, e ≠ .ok ∧ t.status = e.code ∧ FailsWith e s (exec i s) := by
  by_cases hc : i = .clrf
  · subst hc; cases ht; exact absurd rfl hs
  by_cases hr : i = .reset
  · subst hr; cases ht; exact absurd rfl hs
  exact (exec_ends i s hc hr).failsWith ht hs

/-- Settles O16: a status other than Ok is that of a failure, which the table lists. -/
theorem statusesAreThoseOfTheTable : Obligations.StatusesAreThoseOfTheTable := by
  intro i s t ht
  refine or_iff_not_imp_left.2 fun hs => ?_
  obtain ⟨e, hmem, -, hcode, -⟩ := exec_failsWith ht hs
  exact ⟨e, hmem, hcode⟩

/-- Settles O12: a command fails by `raise` alone, and so does the step on a word that is no command. -/
theorem failureIsPrecise : Obligations.FailureIsPrecise := by
  have hexec (i : Instr) (s t : State) (ht : exec i s = .next t) (hs : t.status ≠ 0) :
      ∃ e : Status, e ≠ .ok ∧ t.status = e.code ∧ FailsWith e s (exec i s) := by
    obtain ⟨e, -, h⟩ := exec_failsWith ht hs
    exact ⟨e, h⟩
  refine ⟨hexec, fun s t c rest hp ht hs => ?_⟩
  rw [← issued_of_pending hp]
  cases hd : decode c with
  | none =>
    rw [step_of_undecodable hp hd] at ht ⊢
    exact ⟨.reservedEncoding, by decide, status_of_raise ht, failsWith_raise _ _⟩
  | some i =>
    rw [step_of_decode hp hd] at ht ⊢
    exact hexec i s.issued t ht hs

/-! ### The response (R258) -/

/-- The response data of a command that ended in `t` and has the destination `d`: the value written, or 0. -/
def responseData (d : Option Reg) (t : State) : Word :=
  match d with
  | some rd => if t.status = 0 then t.getX rd else 0
  | none => 0

theorem responseData_of_failed {t : State} (h : t.status ≠ 0) (d : Option Reg) : responseData d t = 0 := by
  cases d with
  | none => rfl
  | some rd => exact if_neg h

theorem responseData_of_ok {t : State} (h : t.status = 0) (rd : Reg) : responseData (some rd) t = t.getX rd := if_pos h

/-- `t` has one response more than `s`: its STATUS, and the data of the destination `d`. -/
def Responds (d : Option Reg) (s t : State) : Prop :=
  t.responses = s.responses ++ [{ status := t.status, data := responseData d t }]

theorem responds_raise {e : Status} (he : e ≠ .ok) (d : Option Reg) (s : State) : Responds d s (s.respond e 0) := by
  rw [Responds, responseData_of_failed fun h => he (e.code_eq_zero.1 h)]
  rfl

/-- Each of the three ends answers with its response. -/
theorem Ends.responds {i : Instr} {s : State} {o : Outcome} (h : Ends i s o) :
    ∃ t, o = .next t ∧ Responds (dest i) s t := by
  cases h with
  | failed e ne => exact ⟨_, rfl, responds_raise ne _ s⟩
  | done s' eff no => exact ⟨_, rfl, by simp [Responds, responseData, no, eff.responses]⟩
  | doneReg rd v s' eff hd =>
    refine ⟨_, rfl, ?_⟩
    rw [Responds, hd, responseData_of_ok rfl]
    simp [eff.responses]

/-- Every command answers with its response; CLRF and RESET have no destination. -/
theorem exec_responds (i : Instr) (s : State) : ∃ t, exec i s = .next t ∧ Responds (dest i) s t := by
  by_cases hc : i = .clrf
  · subst hc; exact ⟨_, rfl, rfl⟩
  by_cases hr : i = .reset
  · subst hr; exact ⟨_, rfl, rfl⟩
  exact (exec_ends i s hc hr).responds

/-- Settles O14: a word that is no command answers as a failure, every other word as its command. -/
theorem responseCarriesTheWrittenValue : Obligations.ResponseCarriesTheWrittenValue := by
  intro s c rest hp
  cases hd : decode c with
  | none => exact ⟨_, step_of_undecodable hp hd, rfl⟩
  | some i =>
    rw [step_of_decode hp hd]
    exact exec_responds i s.issued

/-! ### Reset (R33, R105, R280, R281) -/

theorem getX_resetOf (c : Config) (r : Reg) : (State.resetOf c).getX r = 0 := by
  simp [State.getX, State.resetOf]

theorem inv_resetOf {c : Config} (hc : c.Admitted) : (State.resetOf c).Inv :=
  ⟨hc, Memory.wf_nil _, Memory.wf_nil _, Memory.wf_nil _, Nat.zero_le _, Nat.zero_le _, fun _ => rfl⟩

/-- Settles O22: the registers are all 0, and no space lists an element. -/
theorem resetStateValues : Obligations.ResetStateValues :=
  ⟨rfl, fun c => ⟨getX_resetOf c, rfl, rfl, rfl, rfl, rfl, fun _ => ⟨rfl, rfl, rfl⟩⟩⟩

/-- Settles O23: the state RESET finishes in is that after reset but for the host's lists. -/
theorem resetCommandHasTheEffectOfReset : Obligations.ResetCommandHasTheEffectOfReset := fun s =>
  ⟨_, rfl, getX_resetOf s.cfg, rfl, rfl, rfl, rfl, rfl, fun _ => ⟨rfl, rfl, rfl⟩, rfl, rfl, rfl⟩

/-- Settles O10: the spaces are empty, and the default parameters are admitted. -/
theorem invariantHoldsAtReset : Obligations.InvariantHoldsAtReset :=
  ⟨inv_resetOf (by decide), fun _ => inv_resetOf⟩

/-! ### The end of a run (R254, R295) -/

/-- Settles O9: the step reads the pending list first. -/
theorem runEndsWhenNoCommandIsPending : Obligations.RunEndsWhenNoCommandIsPending := by
  intro s hp
  rw [step, hp]

end Sys2Proof.Machine
end

section
/-! PROOFS. What follows from earlier statements taken together: the worked encodings (30_encoding.md section 5), a
scalar unpacked after it was packed (42_packer.md section 1), and the lengths of a built frame (47_build_validate.md
section 4). -/

namespace Sys2Proof.Machine

/-! ### The worked encodings (R92) -/

theorem decode_of_encode_eq {i : Instr} {w : Word} (h : encode i = w) : decode w = some i :=
  h ▸ decodeReadsBackEncode i

/-- Settles O4: each of the words is the encoder's word of its command. -/
theorem workedEncodingsDecode : Obligations.WorkedEncodingsDecode := by
  refine ⟨?_, ?_, ?_, ?_, ?_, ?_, ?_, ?_, ?_, ?_, ?_⟩
  all_goals exact decode_of_encode_eq (by decide)

/-! ### Unpacking a scalar that was packed (R138) -/

section scalars

variable {s t : State} {rs1 rs2 : Reg}

/-- Where a scalar command ended with Ok, its operands passed the checks. -/
theorem checks_of_withSpan_ok {tooSmall : Nat → Bool} {k : Nat → Nat → Outcome}
    (h : withSpan rs1 rs2 tooSmall s k = .next t) (h0 : t.status = 0) :
    s.num rs1 + s.num rs2 ≤ s.cfg.nw ∧ tooSmall (s.num rs2) = false := by
  have hraise (e : Status) (he : e ≠ .ok) : raise e s ≠ .next t := fun hr =>
    he (e.code_eq_zero.1 ((status_of_raise hr).symm.trans h0))
  rcases withSpan_cases rs1 rs2 tooSmall s k with ⟨-, hc⟩ | ⟨-, -, hc⟩ | ⟨hw, hp, -⟩
  · exact absurd (hc.symm.trans h) (hraise _ (by decide))
  · exact absurd (hc.symm.trans h) (hraise _ (by decide))
  · exact ⟨hw, hp⟩

/-- The scalar reads after a command that has kept the registers, in terms of the slice before it. -/
theorem unpackScalars_of_kept {f : Footprint} (hkeep : KeepsBut s t f) (hf : f.reg = none)
    (hw : s.num rs1 + s.num rs2 ≤ s.cfg.nw) (rd : Reg) :
    (1 ≤ s.num rs2 →
      GivesReg rd (t.word (s.num rs1) / 256) t (exec (.unpkU8 rd rs1 rs2 .msb) t) ∧
      GivesReg rd (t.word (s.num rs1) % 256) t (exec (.unpkU8 rd rs1 rs2 .lsb) t) ∧
      GivesReg rd (t.word (s.num rs1)) t (exec (.unpkU16 rd rs1 rs2) t)) ∧
    (2 ≤ s.num rs2 → ∀ i ∈ [Instr.unpkU32 rd rs1 rs2, .unpkF32 rd rs1 rs2],
      GivesReg rd (65536 * t.word (s.num rs1) + t.word (s.num rs1 + 1)) t (exec i t)) := by
  have hnum := hkeep.num hf
  have h := unpackScalarsGiveTheWords t rd rs1 rs2 (by rwa [hnum, hnum, hkeep.cfg])
  rw [hnum rs1, hnum rs2] at h
  simpa only [List.forall_mem_cons, List.not_mem_nil, false_imp_iff, implies_true, and_true] using h

end scalars

/-- Settles O32: PACK stored the value in the words of the slice, and UNPK reads the same words. -/
theorem unpackScalarReturnsWhatWasPacked : Obligations.UnpackScalarReturnsWhatWasPacked := by
  intro s t rv rd rs1 rs2 ord hi h0
  refine ⟨fun ht => ?u8, fun ht => ?u16, fun ht => ?u32, fun ht => ?f32⟩
  case u8 =>
    have hform := ht
    simp only [exec, execPackU8] at hform
    obtain ⟨hw, hp⟩ := checks_of_withSpan_ok hform h0
    have h1 : 1 ≤ s.num rs2 := Nat.not_lt.1 (of_decide_eq_false hp)
    obtain ⟨hmsb, hlsb, -⟩ := (packScalarsWriteTheWords s rv rs1 rs2 hi hw).1 h1
    cases ord with
    | msb =>
      obtain ⟨hkeep, hword⟩ := hmsb.of_next ht
      obtain ⟨hget, -⟩ := (unpackScalars_of_kept hkeep rfl hw rd).1 h1
      have hv : t.word (s.num rs1) / 256 = s.num rv % 256 := by omega
      rwa [hv] at hget
    | lsb =>
      obtain ⟨hkeep, hword⟩ := hlsb.of_next ht
      obtain ⟨-, hget, -⟩ := (unpackScalars_of_kept hkeep rfl hw rd).1 h1
      have hv : t.word (s.num rs1) % 256 = s.num rv % 256 := by omega
      rwa [hv] at hget
  case u16 =>
    have hform := ht
    simp only [exec, execPackU16] at hform
    obtain ⟨hw, hp⟩ := checks_of_withSpan_ok hform h0
    have h1 : 1 ≤ s.num rs2 := Nat.not_lt.1 (of_decide_eq_false hp)
    obtain ⟨-, -, hpack⟩ := (packScalarsWriteTheWords s rv rs1 rs2 hi hw).1 h1
    obtain ⟨hkeep, hword⟩ := hpack.of_next ht
    obtain ⟨-, -, hget⟩ := (unpackScalars_of_kept hkeep rfl hw rd).1 h1
    rwa [hword] at hget
  case u32 | f32 =>
    have hform := ht
    simp only [exec, execPackU32, execPackF32] at hform
    obtain ⟨hw, hp⟩ := checks_of_withSpan_ok hform h0
    have h2 : 2 ≤ s.num rs2 := Nat.not_lt.1 (of_decide_eq_false hp)
    obtain ⟨hkeep, hhi, hlo⟩ := ((packScalarsWriteTheWords s rv rs1 rs2 hi hw).2 h2 _ (by simp)).of_next ht
    have hget := (unpackScalars_of_kept hkeep rfl hw rd).2 h2
    rw [hhi, hlo, Nat.div_add_mod] at hget
    exact hget _ (by simp)

/-! ### The lengths of a built frame (R238) -/

/-- The length getters on a sealed frame whose bytes give it the length it was sealed with. -/
theorem Sealed.lengthIdentity {tid : Nat} {body : List Byte} {t : State} (hs : Sealed tid body t)
    (hlen : t.frameLength = body.length + 2) (hk : t.kind ≠ .other) (rd : Reg) :
    ∃ m, 1 ≤ m ∧ GivesReg rd m t (exec (.getMlen rd) t) ∧ GivesReg rd (m + 2) t (exec (.getRtulen rd) t) ∧
      GivesReg rd (m - 1) t (exec (.getPdulen rd) t) ∧ GivesReg rd (m + 2 + 4) t (exec (.getTcplen rd) t) := by
  have hge := frameLength_ge t hk
  obtain ⟨-, -, gmlen, -, -, -, -, gtcplen⟩ := headerGettersGiveTheirField t rd
  obtain ⟨-, -, grtulen, gpdulen⟩ := layoutGettersFollowTheFrameKind t rd
  rw [hs.mlen] at gmlen gtcplen
  rw [hlen] at grtulen gpdulen
  rw [Nat.add_comm] at gtcplen
  exact ⟨body.length, by omega, gmlen, grtulen, gpdulen, gtcplen⟩

/-- Settles O57: each builder seals a frame of the length its bytes say. -/
theorem builtFrameLengthIdentity : Obligations.BuiltFrameLengthIdentity := by
  intro s t rd hi h0 ht
  rcases ht with ⟨rq, ht⟩ | ht
  · obtain ⟨h, hd, hs⟩ := sealed_of_build_ok hi ht h0
    obtain ⟨-, -, hother⟩ := kindOf_of_accepts h
    exact hs.lengthIdentity (frameLength_of_built h hd hs) (kind_of_built h hd hs ▸ hother) rd
  · obtain ⟨h, hs⟩ := sealed_of_buildExc_ok hi ht h0
    have hkind := kind_of_builtExc h hs
    exact hs.lengthIdentity (by rw [State.frameLength, hkind]; rfl) (by rw [hkind]; decide) rd

end Sys2Proof.Machine
end
